-- ==== Sys2Proof/Word.lean ====
section
/-! DEFINITION. The words of the block: an 8-bit register value, a 32-bit transaction word, a 16-bit pixel and a framebuffer index (00_scope.md R10, R12, R13; 10_state.md R29; 30_encoding.md R70). -/

namespace Sys2Proof

/-- An 8-bit register or port value (00_scope.md R12). -/
abbrev Byte := BitVec 8

/-- A transaction word (30_encoding.md R70). -/
abbrev TxWord := BitVec 32

/-- A pixel of a framebuffer, a 16-bit word (00_scope.md R10). -/
abbrev Pixel := BitVec 16

/-- The index, 0 or 1, of a framebuffer (10_state.md R29). -/
abbrev FbIndex := Fin 2

end Sys2Proof
end

