-- ==== Sys2Proof/Config.lean ====
section
/-! DEFINITION. The implementation parameters of 00_scope.md R5 to R11, with the spec's defaults, and the free values: what the collaborators do inside their calls, which the spec leaves to them (40_timing_fsm.md R104; 93_implementation_defined.md I12). -/

namespace Sys2Proof

/-- `P_VARIANT` (00_scope.md R2, R11). -/
inductive Variant where
  | dmg
  | cgb
deriving DecidableEq, Repr

/-- `P_DISPLAY_OFF_POLICY` (00_scope.md R11; 40_timing_fsm.md R120; 90_conflicts.md C2). -/
inductive DisplayOffPolicy where
  | freeze
  | runGated
deriving DecidableEq, Repr

/-- The parameters of a machine. They are fixed for the machine: no transaction writes one.
`P_FRAME_PERIOD` is derived from them (R7), so it is no field. -/
structure Config where
  /-- `P_LINE_PERIOD` (R5). -/
  linePeriod : Nat
  /-- `P_LINES` (R6). -/
  lines : Nat
  /-- `P_VISIBLE` (R6). -/
  visible : Nat
  /-- `P_OAM_END` (R8). -/
  oamEnd : Nat
  /-- `P_XFER_END` (R8). -/
  xferEnd : Nat
  /-- `P_WIDTH` (R10). -/
  width : Nat
  /-- `P_CLEAR_PIXEL` (R10). -/
  clearPixel : Pixel
  /-- `P_VARIANT` (R11). -/
  variant : Variant
  /-- `P_DISPLAY_OFF_POLICY` (R11). -/
  displayOffPolicy : DisplayOffPolicy
  /-- `P_STAT_BIT7` (R11). -/
  statBit7 : Bool
  /-- `P_LCDC_RESET` (R11). -/
  lcdcReset : Byte
deriving DecidableEq, Repr

/-- The defaults of 00_scope.md R5 to R11. DESIGN CHOICE (log entry 4, unsafe): the spec gives
`P_VARIANT` no default; CGB is taken, because the vectors of 95_test_vectors.md that name no variant
include chunk triggers (T2), which only CGB has. -/
def Config.defaults : Config where
  linePeriod := 456
  lines := 154
  visible := 144
  oamEnd := 80
  xferEnd := 252
  width := 160
  clearPixel := 0x0000#16
  variant := .cgb
  displayOffPolicy := .freeze
  statBit7 := true
  lcdcReset := 0x91#8

/-- FREE VALUE (log entry 9): the pixel that the collaborator `Render(y, b)` writes at a column of row y.
The arguments are the number of the collaborator call, LCDC at the instant of the call, y, b and the column.
DESIGN CHOICE: the spec leaves what Render computes to the renderer (40_timing_fsm.md R104). -/
opaque Config.renderPixel : Nat → Byte → Nat → FbIndex → Nat → Pixel

/-- FREE VALUE (log entry 10): whether the `HdmaChunk()` call of this number clears `hdma_hblank_active`.
DESIGN CHOICE: the spec says only that it may (40_timing_fsm.md R104). -/
opaque Config.chunkEndsTransfer : Nat → Bool

end Sys2Proof
end

