-- ==== Sys2Proof/Syntax.lean ====
section
/-! DEFINITION. The transactions, one constructor per row of spec/opcode_table.json (30_encoding.md R76), and the assembler lines of R78. -/

namespace Sys2Proof

/-- The ten transactions of 30_encoding.md R76. `data` is the written byte (R73), `n` the reported
cycle count (R74), a natural number that `Instr.wellFormed` bounds. -/
inductive Instr where
  | rdLcdc
  | wrLcdc (data : Byte)
  | rdStat
  | wrStat (data : Byte)
  | rdLy
  | wrLy (data : Byte)
  | rdLyc
  | wrLyc (data : Byte)
  | step (n : Nat)
  | reset
deriving DecidableEq, Repr

/-- The ports the block owns (10_state.md R20). -/
inductive Port where
  | lcdc
  | stat
  | ly
  | lyc
deriving DecidableEq, Repr

/-- A port operand of the assembler, by name or by number (30_encoding.md R78). -/
inductive AsmPort where
  | name (p : Port)
  | number (p : Byte)
deriving DecidableEq, Repr

/-- An assembler line: a transaction or one of the pseudo-transactions of 30_encoding.md R78. -/
inductive AsmLine where
  | rd (port : AsmPort)
  | wr (port : AsmPort) (data : Byte)
  | step (n : Nat)
  | reset
  | nop
  | line
  | frame
  | lcdOff (data : Byte)
  | lcdOn (data : Byte)
deriving DecidableEq, Repr

end Sys2Proof
end

