-- ==== Sys2Proof/WellFormed.lean ====
section
/-! DEFINITION. Which terms of Instr are transactions: the bound on the cycle count (30_encoding.md R74). Every other operand has the width of its field by its type. -/

namespace Sys2Proof

/-- `0 <= n <= 2^30 - 1` (30_encoding.md R74); the other operands are bytes. -/
def Instr.wellFormed (i : Instr) : Bool :=
  match i with
  | .rdLcdc => true
  | .wrLcdc _ => true
  | .rdStat => true
  | .wrStat _ => true
  | .rdLy => true
  | .wrLy _ => true
  | .rdLyc => true
  | .wrLyc _ => true
  | .step n => decide (n < 2 ^ 30)
  | .reset => true

end Sys2Proof
end

