-- ==== Sys2Proof/Decode.lean ====
section
/-! DEFINITION. The decoder of a transaction word, total, rejecting by name (30_encoding.md R70 to R77), the encoder from the same fields, the opcode map of R76 as data, and the assembler of R78. -/

namespace Sys2Proof

/-- Why a word is no transaction of this block (30_encoding.md R77). -/
inductive DecodeError where
  /-- "Reserved bits set." -/
  | reservedBits
  /-- "Unowned port." -/
  | unownedPort
deriving DecidableEq, Repr

/-- `kind = w[31:30]` (R71). -/
def kindField (w : TxWord) : BitVec 2 := w.extractLsb' 30 2

/-- `w[29:16]`, reserved in RD and WR (R70). -/
def reservedField (w : TxWord) : BitVec 14 := w.extractLsb' 16 14

/-- `port = w[15:8]` (R72, R73). -/
def portField (w : TxWord) : Byte := w.extractLsb' 8 8

/-- `data = w[7:0]` (R73); reserved in RD (R72). -/
def dataField (w : TxWord) : Byte := w.extractLsb' 0 8

/-- `n = w[29:0]` (R74); reserved in RESET (R75). -/
def countField (w : TxWord) : BitVec 30 := w.extractLsb' 0 30

/-- The port of an owned register (10_state.md R20). -/
def portNumber (p : Port) : Byte :=
  match p with
  | .lcdc => 0x40#8
  | .stat => 0x41#8
  | .ly => 0x44#8
  | .lyc => 0x45#8

/-- The register at a port, none where the block does not own the port (10_state.md R20; 20_memory.md R56). -/
def portOf (p : Byte) : Option Port :=
  if p = 0x40#8 then some .lcdc
  else if p = 0x41#8 then some .stat
  else if p = 0x44#8 then some .ly
  else if p = 0x45#8 then some .lyc
  else none

/-- The read of a register. -/
def rdOf (p : Port) : Instr :=
  match p with
  | .lcdc => .rdLcdc
  | .stat => .rdStat
  | .ly => .rdLy
  | .lyc => .rdLyc

/-- The write of a register. -/
def wrOf (p : Port) (data : Byte) : Instr :=
  match p with
  | .lcdc => .wrLcdc data
  | .stat => .wrStat data
  | .ly => .wrLy data
  | .lyc => .wrLyc data

/-- RD: `w[29:16]` and `w[7:0]` must be 0 (R72, R77). DESIGN CHOICE (log entry 8, safe): a word that has
reserved bits set and an unowned port is refused as `reservedBits`. -/
def decodeRd (w : TxWord) : Except DecodeError Instr :=
  if reservedField w = 0#14 ∧ dataField w = 0#8 then
    match portOf (portField w) with
    | some p => .ok (rdOf p)
    | none => .error .unownedPort
  else .error .reservedBits

/-- WR: `w[29:16]` must be 0 (R73, R77). -/
def decodeWr (w : TxWord) : Except DecodeError Instr :=
  if reservedField w = 0#14 then
    match portOf (portField w) with
    | some p => .ok (wrOf p (dataField w))
    | none => .error .unownedPort
  else .error .reservedBits

/-- STEP: every word is accepted (R74, R77). -/
def decodeStep (w : TxWord) : Except DecodeError Instr :=
  .ok (.step (countField w).toNat)

/-- RESET: `w[29:0]` must be 0 (R75, R77). -/
def decodeReset (w : TxWord) : Except DecodeError Instr :=
  if countField w = 0#30 then .ok .reset else .error .reservedBits

/-- The transaction a word encodes (R70, R71). -/
def decode (w : TxWord) : Except DecodeError Instr :=
  if kindField w = 0#2 then decodeRd w
  else if kindField w = 1#2 then decodeWr w
  else if kindField w = 2#2 then decodeStep w
  else decodeReset w

/-- The word of a RD or a WR from its fields (R70). -/
def accessWord (kind : BitVec 2) (p : Port) (data : Byte) : TxWord :=
  kind ++ 0#14 ++ portNumber p ++ data

/-- The word of a transaction (R70, R76). The count of an ill-formed STEP is cut to its field. -/
def encode (i : Instr) : TxWord :=
  match i with
  | .rdLcdc => accessWord 0#2 .lcdc 0#8
  | .wrLcdc data => accessWord 1#2 .lcdc data
  | .rdStat => accessWord 0#2 .stat 0#8
  | .wrStat data => accessWord 1#2 .stat data
  | .rdLy => accessWord 0#2 .ly 0#8
  | .wrLy data => accessWord 1#2 .ly data
  | .rdLyc => accessWord 0#2 .lyc 0#8
  | .wrLyc data => accessWord 1#2 .lyc data
  | .step n => 2#2 ++ BitVec.ofNat 30 n
  | .reset => 3#2 ++ 0#30

/-- A row of the opcode map: a word matches it when `(w & mask) == pattern` (R76). -/
structure OpcodeRow where
  mnemonic : String
  pattern : TxWord
  mask : TxWord
deriving DecidableEq, Repr

/-- The opcode map, row by row (R76). -/
def opcodeRows : List OpcodeRow :=
  [ ⟨"RD_LCDC", 0x00004000#32, 0xFFFFFFFF#32⟩,
    ⟨"WR_LCDC", 0x40004000#32, 0xFFFFFF00#32⟩,
    ⟨"RD_STAT", 0x00004100#32, 0xFFFFFFFF#32⟩,
    ⟨"WR_STAT", 0x40004100#32, 0xFFFFFF00#32⟩,
    ⟨"RD_LY", 0x00004400#32, 0xFFFFFFFF#32⟩,
    ⟨"WR_LY", 0x40004400#32, 0xFFFFFF00#32⟩,
    ⟨"RD_LYC", 0x00004500#32, 0xFFFFFFFF#32⟩,
    ⟨"WR_LYC", 0x40004500#32, 0xFFFFFF00#32⟩,
    ⟨"STEP", 0x80000000#32, 0xC0000000#32⟩,
    ⟨"RESET", 0xC0000000#32, 0xFFFFFFFF#32⟩ ]

/-- "A word matches a row when `(w & mask) == match`" (R76). -/
def OpcodeRow.accepts (r : OpcodeRow) (w : TxWord) : Bool := (w &&& r.mask) == r.pattern

/-- The mnemonic of a transaction's row. -/
def mnemonic (i : Instr) : String :=
  match i with
  | .rdLcdc => "RD_LCDC"
  | .wrLcdc _ => "WR_LCDC"
  | .rdStat => "RD_STAT"
  | .wrStat _ => "WR_STAT"
  | .rdLy => "RD_LY"
  | .wrLy _ => "WR_LY"
  | .rdLyc => "RD_LYC"
  | .wrLyc _ => "WR_LYC"
  | .step _ => "STEP"
  | .reset => "RESET"

/-- The transaction word an opcode-table number stands for: its low `nbits` bits, the bits above zero.
DEDUCED (log entry 16, safe): a transaction is delivered as one 32-bit word, so no byte order enters
(20_memory.md R53; 30_encoding.md R70). -/
def tableWord (nbits w : Nat) : TxWord := BitVec.ofNat 32 (w % 2 ^ nbits)

/-- The transaction the decoder reads from an opcode-table word. -/
def decodeTableWord (nbits w : Nat) : Option Instr :=
  match decode (tableWord nbits w) with
  | .ok i => some i
  | .error _ => none

/-- The register a port operand of the assembler names: "Names and numbers are equivalent" (R78). -/
def asmPort (p : AsmPort) : Option Port :=
  match p with
  | .name q => some q
  | .number b => portOf b

/-- The transaction an assembler line stands for, with the pseudo-transactions expanded (R78); none where
the line is not of R78's syntax (a port the block does not own, a count of 2^30 or more). LINE and FRAME
depend on the parameters. -/
def assemble (c : Config) (l : AsmLine) : Option Instr :=
  match l with
  | .rd p => (asmPort p).map rdOf
  | .wr p d => (asmPort p).map fun q => wrOf q d
  | .step n => if n < 2 ^ 30 then some (.step n) else none
  | .reset => some .reset
  | .nop => some (.step 0)
  | .line => if c.linePeriod < 2 ^ 30 then some (.step c.linePeriod) else none
  | .frame => if c.linePeriod * c.lines < 2 ^ 30 then some (.step (c.linePeriod * c.lines)) else none
  | .lcdOff d => some (.wrLcdc (d &&& 0x7F#8))
  | .lcdOn d => some (.wrLcdc (d ||| 0x80#8))

end Sys2Proof
end

