-- ==== Sys2Proof/Machine/State.lean ====
section
/-! DEFINITION. The state of the block as plain data (10_state.md), its outputs (40_timing_fsm.md R104), the reasons a step can stop (60_exceptions.md R171, R172), and the state after reset (10_state.md R35). -/

namespace Sys2Proof.Machine

/-- The four modes (00_scope.md R15; 40_timing_fsm.md R100). -/
inductive Mode where
  | hblank
  | vblank
  | oamSearch
  | pixelTransfer
deriving DecidableEq, Repr

/-- The sources of the status interrupt (60_exceptions.md R173). -/
inductive StatSource where
  | hbl
  | vbl
  | oam
  | lyc
deriving DecidableEq, Repr

/-- The events of a transaction (40_timing_fsm.md R104). -/
inductive Event where
  | irqVBlank
  | irqStat (src : StatSource)
  | renderLine (y : Nat) (b : FbIndex)
  | hdmaChunk
  | frameReady (h : FbIndex)
  | swap (b : FbIndex)
deriving DecidableEq, Repr

/-- What reaches the block from outside, in arrival order (10_state.md R30): a transaction word, or a
change of the input `hdma_hblank_active` between two transactions (log entries 1 and 11). -/
inductive Stimulus where
  | word (w : TxWord)
  | hdma (level : Bool)
deriving DecidableEq, Repr

/-- The pixels of a framebuffer that do not hold `P_CLEAR_PIXEL`, as (index, pixel) pairs with rising
indexes (10_state.md R29; log entry 13). -/
abbrev Fb := List (Nat × Pixel)

/-- The state of the block, of its interface, and the configuration it runs with. -/
structure State where
  /-- The parameters (00_scope.md R5 to R11), fixed for the machine. -/
  cfg : Config
  /-- LCDC, port 0x40 (10_state.md R21). -/
  lcdc : Byte
  /-- `r.stat_ie`, STAT bits 6..3 (10_state.md R22): bit 0 HBL, bit 1 VBL, bit 2 OAM, bit 3 LYC. -/
  statIe : BitVec 4
  /-- `r.lyc`, port 0x45 (10_state.md R24). -/
  lyc : Byte
  /-- `r.cnt`, the cycle counter (10_state.md R25). -/
  cnt : Nat
  /-- `r.mode`, the stored mode (10_state.md R26). -/
  mode : Mode
  /-- `r.fb_sel`, the index of the in-progress framebuffer (10_state.md R29). -/
  fbSel : FbIndex
  /-- FB[0] (10_state.md R29). -/
  fb0 : Fb
  /-- FB[1] (10_state.md R29). -/
  fb1 : Fb
  /-- The level of the input `hdma_hblank_active` (10_state.md R30; log entry 11). -/
  hdmaActive : Bool
  /-- The transaction stream not delivered yet, oldest first (10_state.md R30; log entry 1). -/
  input : List Stimulus
  /-- The ordered event list of the last step's transaction (40_timing_fsm.md R104; log entry 5). -/
  events : List Event
  /-- The value the last step's RD returned, if it was a RD (30_encoding.md R72; log entry 5). -/
  result : Option Byte
  /-- The model's own field: collaborator calls made so far, the index of the free values (log entry 12). -/
  calls : Nat
deriving DecidableEq, Repr

/-- The reasons the model stops in a fault state. -/
inductive Fault where
  /-- Raised by every transaction but RESET when the state breaks 10_state.md R36 (60_exceptions.md R172).
  Safe: no run from reset reaches such a state, and the spec names this fault for it. -/
  | invariantViolation
deriving DecidableEq, Repr

/-- The reasons a step is refused: it has no next state and the mark is final (60_exceptions.md R171). -/
inductive Refusal where
  /-- An instruction without a meaning yet, raised by the dispatch alone. Safe. No arm of this model raises it. -/
  | notModelled (mnemonic : String)
  /-- Raised by `step` on a word with reserved bits set (30_encoding.md R77). Safe: the word is no transaction. -/
  | reservedBits
  /-- Raised by `step` on a RD or WR of a port the block does not own (30_encoding.md R77). Safe. -/
  | unownedPort
  /-- Raised by every transaction under a configuration that breaks 00_scope.md R9. Safe. -/
  | badConfiguration
deriving DecidableEq, Repr

/-- What a transaction answers. -/
abbrev Answer := Host.Outcome State Fault Refusal

/-- The state RESET leaves, for any configuration (10_state.md R35; 70_reset_and_hazards.md R201), with
nothing delivered, the input line low (log entry 11) and no collaborator call made (log entry 12). -/
def State.resetWith (c : Config) : State where
  cfg := c
  lcdc := c.lcdcReset
  statIe := 0#4
  lyc := 0x00#8
  cnt := 0
  mode := .hblank
  fbSel := 0
  fb0 := []
  fb1 := []
  hdmaActive := false
  input := []
  events := []
  result := none
  calls := 0

/-- The machine right after reset, with the spec's default parameters (10_state.md R35; log entries 3 and 4). -/
def State.reset : State := State.resetWith Config.defaults

end Sys2Proof.Machine
end

