-- ==== Sys2Proof/Machine/Timing.lean ====
section
/-! DEFINITION. The pure timing functions of the counter: frame period, LY, dot, the derived mode and the next count (00_scope.md R7, R9; 10_state.md R27; 40_timing_fsm.md R101, R110). -/

namespace Sys2Proof.Machine

/-- `P_FRAME_PERIOD = P_LINE_PERIOD * P_LINES` (00_scope.md R7). -/
def framePeriod (c : Config) : Nat := c.linePeriod * c.lines

/-- The constraints of 00_scope.md R9. -/
def validConfig (c : Config) : Bool :=
  decide (0 < c.oamEnd) && decide (c.oamEnd < c.xferEnd) && decide (c.xferEnd < c.linePeriod) &&
  decide (0 < c.visible) && decide (c.visible < c.lines) && decide (c.lines ≤ 256)

/-- `ly(c) = (c mod P_FRAME_PERIOD) / P_LINE_PERIOD`, the scanline (10_state.md R27). -/
def lyOf (c : Config) (count : Nat) : Nat := (count % framePeriod c) / c.linePeriod

/-- `dot(c) = c mod P_LINE_PERIOD`, the intra-line offset (10_state.md R27). -/
def dotOf (c : Config) (count : Nat) : Nat := count % c.linePeriod

/-- The derived mode of a counter value (40_timing_fsm.md R101), with half-open intervals (D3). -/
def modeOf (c : Config) (count : Nat) : Mode :=
  if c.visible ≤ lyOf c count then .vblank
  else if dotOf c count < c.oamEnd then .oamSearch
  else if dotOf c count < c.xferEnd then .pixelTransfer
  else .hblank

/-- The counter after one tick: `(cnt + 1) mod P_FRAME_PERIOD` (40_timing_fsm.md R110). -/
def nextCount (c : Config) (count : Nat) : Nat := (count + 1) % framePeriod c

end Sys2Proof.Machine
end

