-- ==== Sys2Proof/Machine/Flags.lean ====
section
/-! DEFINITION. The flags and computed register values: mode code, coincidence flag, the byte STAT reads, the byte LY reads, and the two request strobes (10_state.md R22, R23, R28, R31, R33; 41_register_access.md R144, R146). -/

namespace Sys2Proof.Machine

/-- The 2-bit code of a mode (00_scope.md R15). -/
def modeCode (m : Mode) : BitVec 2 :=
  match m with
  | .hblank => 0#2
  | .vblank => 1#2
  | .oamSearch => 2#2
  | .pixelTransfer => 3#2

/-- The scanline LY of a state; it is not storage (10_state.md R23). -/
def scanline (s : State) : Nat := lyOf s.cfg s.cnt

/-- The coincidence flag `ly(r.cnt) == r.lyc`, no latch (10_state.md R28). -/
def coincidence (s : State) : Bool := scanline s == s.lyc.toNat

/-- The byte RD STAT returns: bit 7, enables, coincidence, mode (41_register_access.md R144). -/
def statByte (s : State) : Byte :=
  BitVec.ofBool s.cfg.statBit7 ++ s.statIe ++ BitVec.ofBool (coincidence s) ++ modeCode s.mode

/-- The byte RD LY returns (41_register_access.md R146). -/
def lyByte (s : State) : Byte := BitVec.ofNat 8 (scanline s)

/-- The strobe `irq_vblank`: the transaction raised the vertical-blank request (10_state.md R31; 60_exceptions.md R174). -/
def irqVBlankStrobe (s : State) : Bool := s.events.contains .irqVBlank

/-- The strobe `irq_stat`: "any enabled source asserts the same flag" (10_state.md R31; 60_exceptions.md R173). -/
def irqStatStrobe (s : State) : Bool :=
  s.events.contains (.irqStat .hbl) || s.events.contains (.irqStat .vbl) ||
  s.events.contains (.irqStat .oam) || s.events.contains (.irqStat .lyc)

end Sys2Proof.Machine
end

