-- ==== Sys2Proof/Machine/Operands.lean ====
section
/-! DEFINITION. What a transaction reads as operands: the fields of a written byte, the fields of LCDC and STAT, and the sampled input line (10_state.md R21, R22, R30). -/

namespace Sys2Proof.Machine

/-- Bit 7 of an LCDC byte, DISPLAY_EN (10_state.md R21). -/
def displayEnable (lcdc : Byte) : Bool := lcdc.getLsbD 7

/-- The fields of LCDC that the block exports to the renderer (10_state.md R21, bits 6 to 0). -/
structure LcdcFields where
  winMap : Bool
  winEn : Bool
  tileData : Bool
  bgMap : Bool
  objSize : Bool
  objEn : Bool
  bgEn : Bool
deriving DecidableEq, Repr

/-- The renderer's view of LCDC (10_state.md R21). -/
def lcdcFields (lcdc : Byte) : LcdcFields where
  winMap := lcdc.getLsbD 6
  winEn := lcdc.getLsbD 5
  tileData := lcdc.getLsbD 4
  bgMap := lcdc.getLsbD 3
  objSize := lcdc.getLsbD 2
  objEn := lcdc.getLsbD 1
  bgEn := lcdc.getLsbD 0

/-- "Display on: LCDC bit 7 == 1" (00_scope.md R16). -/
def displayOn (s : State) : Bool := displayEnable s.lcdc

/-- `data[6:3]`, the enables a write to STAT stores (41_register_access.md R145). -/
def enablesOf (data : Byte) : BitVec 4 := data.extractLsb' 3 4

/-- The bit of `r.stat_ie` that enables a source: STAT bit 3 HBL, 4 VBL, 5 OAM, 6 LYC (10_state.md R22). -/
def enableBit (src : StatSource) : Nat :=
  match src with
  | .hbl => 0
  | .vbl => 1
  | .oam => 2
  | .lyc => 3

/-- Whether a source of the status interrupt is enabled (60_exceptions.md R173, R175). -/
def enabled (s : State) (src : StatSource) : Bool := s.statIe.getLsbD (enableBit src)

/-- The input `hdma_hblank_active`, sampled now: "Always 0 when `P_VARIANT = DMG`" (10_state.md R30). -/
def hdmaSample (s : State) : Bool := s.cfg.variant == .cgb && s.hdmaActive

/-- Whether a tick advances the counter: display on, or the policy RunGated (40_timing_fsm.md R110, R120). -/
def ticking (s : State) : Bool := displayOn s || s.cfg.displayOffPolicy == .runGated

end Sys2Proof.Machine
end

