-- ==== Sys2Proof/Machine/Ops.lean ====
section
/-! DEFINITION. The shared operations: framebuffer reads and writes, event emission, collaborator calls, the display-off reset and the reset, the invariant of 10_state.md R36, and the two guards every transaction runs under. The block takes no exception and has no return from one (60_exceptions.md R170, R177, R178), so the one stop, `Fault InvariantViolation` (R172), is raised here, in `transact`. -/

namespace Sys2Proof.Machine

/-! ### Writes of one register (`r.X <- v`, 00_scope.md R14) -/

def setLcdc (v : Byte) (s : State) : State := { s with lcdc := v }
def setStatIe (v : BitVec 4) (s : State) : State := { s with statIe := v }
def setLyc (v : Byte) (s : State) : State := { s with lyc := v }
def setCnt (n : Nat) (s : State) : State := { s with cnt := n }
def setMode (m : Mode) (s : State) : State := { s with mode := m }
def setFbSel (b : FbIndex) (s : State) : State := { s with fbSel := b }

/-! ### Framebuffers (10_state.md R29, 00_scope.md R14) -/

/-- The stored pixel at an index; an unlisted one holds the clear pixel. -/
def fbGet (clear : Pixel) (m : Fb) (i : Nat) : Pixel :=
  match m with
  | [] => clear
  | (j, v) :: rest => if j = i then v else fbGet clear rest i

/-- Add a pixel in front, unless it is the clear pixel. -/
def fbCons (clear : Pixel) (i : Nat) (v : Pixel) (m : Fb) : Fb :=
  if v = clear then m else (i, v) :: m

/-- `FbWrite(b, i, v)` on one framebuffer (00_scope.md R14): the indexes keep rising and a pixel that
becomes the clear pixel is unlisted. -/
def fbPut (clear : Pixel) (m : Fb) (i : Nat) (v : Pixel) : Fb :=
  match m with
  | [] => fbCons clear i v []
  | (j, u) :: rest =>
    if j < i then (j, u) :: fbPut clear rest i v
    else if j = i then fbCons clear i v rest
    else fbCons clear i v ((j, u) :: rest)

/-- The canonical form: every listed index lies in `[low, size)`, indexes rise, no clear pixel is listed. -/
def fbCanonical (clear : Pixel) (size low : Nat) (m : Fb) : Bool :=
  match m with
  | [] => true
  | (j, v) :: rest =>
    decide (low ≤ j) && decide (j < size) && decide (v ≠ clear) && fbCanonical clear size (j + 1) rest

/-- `P_WIDTH * P_VISIBLE`, the number of pixels of a framebuffer (10_state.md R29). -/
def fbSize (c : Config) : Nat := c.width * c.visible

/-- FB[b]. -/
def fb (s : State) (b : FbIndex) : Fb := if b = 0 then s.fb0 else s.fb1

/-- Replace FB[b]. -/
def setFb (b : FbIndex) (m : Fb) (s : State) : State :=
  { s with
    fb0 := if b = 0 then m else s.fb0
    fb1 := if b = 0 then s.fb1 else m }

/-- The pixel at index `scanline * P_WIDTH + column` of FB[b], none where the buffer has no such pixel (10_state.md R29). -/
def pixel (s : State) (b : FbIndex) (i : Nat) : Option Pixel :=
  if i < fbSize s.cfg then some (fbGet s.cfg.clearPixel (fb s b) i) else none

/-- The other framebuffer, `1 - b` (10_state.md R29). -/
def otherFb (b : FbIndex) : FbIndex := 1 - b

/-- `FbWrite(b, i, v)` (00_scope.md R14). -/
def fbWrite (b : FbIndex) (i : Nat) (v : Pixel) (s : State) : State :=
  setFb b (fbPut s.cfg.clearPixel (fb s b) i v) s

/-- The clear of FB[b] (40_timing_fsm.md R117; 70_reset_and_hazards.md R200): every pixel becomes the clear
pixel, so none is listed. `Laws/Framebuffer.lean` proves that the loop of `FbWrite` over all indexes gives this. -/
def clearFb (b : FbIndex) (s : State) : State := setFb b [] s

/-- The loop `for i in 0 .. n - 1: FbWrite(b, i, P_CLEAR_PIXEL)` as R117 and R200 write it. -/
def clearLoop (b : FbIndex) (n : Nat) (s : State) : State :=
  match n with
  | 0 => s
  | k + 1 => fbWrite b k s.cfg.clearPixel (clearLoop b k s)

/-! ### Outputs (40_timing_fsm.md R104) -/

/-- A step begins with no event and no result: "events never outlive their transaction" (10_state.md R35). -/
def quiet (s : State) : State := { s with events := [], result := none }

/-- `emit(e)`: append to the event list of the transaction (00_scope.md R14). -/
def emit (e : Event) (s : State) : State := { s with events := s.events ++ [e] }

/-- The value a RD returns to the dispatcher (30_encoding.md R72). -/
def answerByte (v : Byte) (s : State) : State := { s with result := some v }

/-- Emit `IrqStat(src)` if its enable is set, read now (60_exceptions.md R174, R175). -/
def raiseStat (src : StatSource) (s : State) : State :=
  if enabled s src then emit (.irqStat src) s else s

/-! ### Collaborator calls (40_timing_fsm.md R104) -/

/-- Row y of a framebuffer written from a free value, pixels `y * P_WIDTH .. y * P_WIDTH + n - 1` (log entry 9). -/
def renderRow (c : Config) (call : Nat) (lcdc : Byte) (y : Nat) (b : FbIndex) (n : Nat) (m : Fb) : Fb :=
  match n with
  | 0 => m
  | k + 1 =>
    fbPut c.clearPixel (renderRow c call lcdc y b k m) (y * c.width + k) (Config.renderPixel call lcdc y b k)

/-- `call Render(y, b)`: it writes row y of FB[b], and no other state of the block. -/
def callRender (y : Nat) (b : FbIndex) (s : State) : State :=
  { setFb b (renderRow s.cfg s.calls s.lcdc y b s.cfg.width (fb s b)) s with calls := s.calls + 1 }

/-- `call HdmaChunk()`: it may clear `hdma_hblank_active` (log entry 10), and writes no state of the block. -/
def callHdmaChunk (s : State) : State :=
  { s with hdmaActive := s.hdmaActive && !Config.chunkEndsTransfer s.calls, calls := s.calls + 1 }

/-- `call FrameReady(h)`: hands FB[h] to the presentation layer; no state of the block changes. -/
def callFrameReady (s : State) : State := { s with calls := s.calls + 1 }

/-! ### The two resets -/

/-- `DisplayOffReset()` (40_timing_fsm.md R121): counter and mode, nothing else, no event. -/
def displayOffReset (s : State) : State := setMode .hblank (setCnt 0 s)

/-- `Reset()` (70_reset_and_hazards.md R200): the values of 10_state.md R35. No event, no call; the
collaborators and the input stream are not reset (log entry 12). -/
def resetBlock (s : State) : State :=
  clearFb 1 (clearFb 0 (setFbSel 0 (setMode .hblank (setCnt 0 (setLyc 0x00#8 (setStatIe 0#4
    (setLcdc s.cfg.lcdcReset s)))))))

/-! ### The invariant and the guards -/

/-- The well-formedness invariant of 10_state.md R36: the counter is in range, the stored mode is the derived
one or the state is at a reset point, and with the display off under Freeze the state is at the reset point. -/
def invariantHolds (s : State) : Bool :=
  decide (s.cnt < framePeriod s.cfg) &&
  (s.mode == modeOf s.cfg s.cnt || (s.cnt == 0 && s.mode == .hblank)) &&
  (ticking s || (s.cnt == 0 && s.mode == .hblank))

/-- Run a transaction's effect under a configuration that meets 00_scope.md R9, with fresh outputs; another
configuration is refused. -/
def underConfig (f : State → State) (s : State) : Answer :=
  if validConfig s.cfg then .next (f (quiet s)) else .refused .badConfiguration

/-- Run a transaction's effect in a state that meets 10_state.md R36; a state that breaks it is the fault
`InvariantViolation` (60_exceptions.md R172; log entry 6). -/
def transact (f : State → State) (s : State) : Answer :=
  if validConfig s.cfg && !invariantHolds s then .fault .invariantViolation else underConfig f s

end Sys2Proof.Machine
end

