-- ==== Sys2Proof/Machine/Modes.lean ====
section
/-! DEFINITION. Mode entry, the tick and a run of ticks (40_timing_fsm.md R110 to R117, R120). -/

namespace Sys2Proof.Machine

/-- `HdmaStep()` (40_timing_fsm.md R116): the input is sampled now. -/
def hdmaStep (s : State) : State :=
  if hdmaSample s then callHdmaChunk (emit .hdmaChunk s) else s

/-- The render trigger of line y (40_timing_fsm.md R113, R123). -/
def renderStep (y : Nat) (s : State) : State :=
  if displayOn s then callRender y s.fbSel (emit (.renderLine y s.fbSel) s) else s

/-- `EnterHBlank()` (40_timing_fsm.md R113): interrupt, render, DMA chunk, in that order. -/
def enterHblank (s : State) : State :=
  hdmaStep (renderStep (scanline s) (if displayOn s then raiseStat .hbl s else s))

/-- `EnterOamSearch()` (40_timing_fsm.md R115). -/
def enterOamSearch (s : State) : State :=
  let t := raiseStat .oam s
  if coincidence t then raiseStat .lyc t else t

/-- The entry of PIXEL_TRANSFER has no side effect (40_timing_fsm.md R114). -/
def enterPixelTransfer (s : State) : State := s

/-- `r.fb_sel <- 1 - h`, the clear of the new in-progress buffer, and `Swap` (40_timing_fsm.md R117). -/
def swapBuffers (s : State) : State :=
  let b := otherFb s.fbSel
  emit (.swap b) (clearFb b (setFbSel b s))

/-- `EnterVBlank()` (40_timing_fsm.md R117): requests, notification, swap, in that order. -/
def enterVblank (s : State) : State :=
  let t := raiseStat .vbl (emit .irqVBlank s)
  swapBuffers (callFrameReady (emit (.frameReady t.fbSel) t))

/-- Entry into mode m: the stored mode is written first, then m's side effects run (40_timing_fsm.md R111). -/
def enterMode (m : Mode) (s : State) : State :=
  let t := setMode m s
  match m with
  | .hblank => enterHblank t
  | .vblank => enterVblank t
  | .oamSearch => enterOamSearch t
  | .pixelTransfer => enterPixelTransfer t

/-- `Tick()` (40_timing_fsm.md R110, R111, R120). -/
def tick (s : State) : State :=
  if ticking s then
    let t := setCnt (nextCount s.cfg s.cnt) s
    let m := modeOf t.cfg t.cnt
    if m = t.mode then t else enterMode m t
  else s

/-- "repeat n times: Tick()" (40_timing_fsm.md R118). -/
def ticks (n : Nat) (s : State) : State :=
  match n with
  | 0 => s
  | k + 1 => ticks k (tick s)

end Sys2Proof.Machine
end

