-- ==== Sys2Proof/Machine/Cycles.lean ====
section
/-! DEFINITION. The meaning of the cycle report STEP n (40_timing_fsm.md R118). -/

namespace Sys2Proof.Machine

/-- STEP n is n ticks (R118; D5). A count past the 30-bit field runs too, though no word encodes it (log entry 18). -/
def execStep (n : Nat) (s : State) : Answer := transact (ticks n) s

end Sys2Proof.Machine
end

