-- ==== Sys2Proof/Machine/Registers.lean ====
section
/-! DEFINITION. The meanings of the register accesses RD and WR of LCDC, STAT, LY and LYC (41_register_access.md R140 to R149). -/

namespace Sys2Proof.Machine

/-- RD LCDC (R141). -/
def execRdLcdc (s : State) : Answer := transact (fun t => answerByte t.lcdc t) s

/-- WR LCDC (R142): the byte is stored, and with bit 7 = 0 the timing state is reset (D25: on every such write). -/
def execWrLcdc (data : Byte) (s : State) : Answer :=
  transact (fun t =>
    if displayEnable data then setLcdc data t else displayOffReset (setLcdc data t)) s

/-- RD STAT (R144). -/
def execRdStat (s : State) : Answer := transact (fun t => answerByte (statByte t) t) s

/-- WR STAT (R145): bits 6..3 are stored, bits 7, 2, 1 and 0 ignored. -/
def execWrStat (data : Byte) (s : State) : Answer :=
  transact (setStatIe (enablesOf data)) s

/-- RD LY (R146). -/
def execRdLy (s : State) : Answer := transact (fun t => answerByte (lyByte t) t) s

/-- WR LY (R147): "data is discarded and no state changes". -/
def execWrLy (_data : Byte) (s : State) : Answer := transact (fun t => t) s

/-- RD LYC (R148). -/
def execRdLyc (s : State) : Answer := transact (fun t => answerByte t.lyc t) s

/-- WR LYC (R149). -/
def execWrLyc (data : Byte) (s : State) : Answer := transact (setLyc data) s

end Sys2Proof.Machine
end

