-- ==== Sys2Proof/Machine/Resets.lean ====
section
/-! DEFINITION. The meaning of RESET (70_reset_and_hazards.md R200). -/

namespace Sys2Proof.Machine

/-- RESET (R200). It has its effect in every state, one that breaks 10_state.md R36 too: the other transactions
are undefined "on a state that RESET did not produce" (R203), RESET is not (log entry 7). -/
def execReset (s : State) : Answer := underConfig resetBlock s

end Sys2Proof.Machine
end

