-- ==== Sys2Proof/Machine/Dispatch.lean ====
section
/-! DEFINITION. One arm per transaction of spec/opcode_table.json. -/

namespace Sys2Proof.Machine

def exec (i : Instr) (s : State) : Host.Outcome State Fault Refusal :=
  match i with
  | .rdLcdc => Sys2Proof.Machine.execRdLcdc s
  | .wrLcdc data => Sys2Proof.Machine.execWrLcdc data s
  | .rdStat => Sys2Proof.Machine.execRdStat s
  | .wrStat data => Sys2Proof.Machine.execWrStat data s
  | .rdLy => Sys2Proof.Machine.execRdLy s
  | .wrLy data => Sys2Proof.Machine.execWrLy data s
  | .rdLyc => Sys2Proof.Machine.execRdLyc s
  | .wrLyc data => Sys2Proof.Machine.execWrLyc data s
  | .step n => Sys2Proof.Machine.execStep n s
  | .reset => Sys2Proof.Machine.execReset s

end Sys2Proof.Machine
end

