-- ==== Sys2Proof/Machine/Fetch.lean ====
section
/-! DEFINITION. Taking the next stimulus from the input stream, and the refusal of a word that is no transaction (10_state.md R30; 20_memory.md R57; 60_exceptions.md R171). -/

namespace Sys2Proof.Machine

/-- Take the oldest stimulus: a transaction word to run, or none after a change of the DMA line or when nothing
is pending. Nothing else of the state changes; a step without a transaction clears the outputs (log entries 1, 5
and 11), and a transaction clears them itself. -/
def takeWord (s : State) : Option TxWord × State :=
  match s.input with
  | [] => (none, quiet s)
  | .hdma level :: rest => (none, quiet { s with input := rest, hdmaActive := level })
  | .word w :: rest => (some w, { s with input := rest })

/-- The mark a refused word leaves (60_exceptions.md R171). -/
def refusalOf (e : DecodeError) : Refusal :=
  match e with
  | .reservedBits => .reservedBits
  | .unownedPort => .unownedPort

/-- A word at the head of the input stream: the next to be delivered. -/
def deliverNext (w : TxWord) (s : State) : State := { s with input := .word w :: s.input }

end Sys2Proof.Machine
end

