-- ==== Sys2Proof/Machine/Step.lean ====
section
/-! DEFINITION. One step of the machine: the next stimulus is taken, and a transaction word is decoded and run to its end (20_memory.md R57). -/

namespace Sys2Proof.Machine

/-- One step. With nothing to run (an empty stream, a change of the DMA line) the block's state stays.
DESIGN CHOICE (log entry 22, safe): the word is decoded first, so that a word that is no transaction is refused under its
own name (30_encoding.md R77) under a configuration that breaks 00_scope.md R9, and in a state that breaks 10_state.md
R36, too; the spec gives no order between these stops. -/
def step (s : State) : Host.Outcome State Fault Refusal :=
  match takeWord s with
  | (none, t) => .next t
  | (some w, t) =>
    match decode w with
    | .ok i => exec i t
    | .error e => .refused (refusalOf e)

/-- The state with an opcode-table word as the next one to be delivered. Programs are delivered to the
block from outside; this stands for that delivery (log entry 1). -/
def State.withFetchWord (s : State) (nbits w : Nat) : State := deliverNext (tableWord nbits w) s

end Sys2Proof.Machine
end

