-- ==== Sys2Proof/Safety.lean ====
section
/-! DEFINITION. What counts as a safe state and a safe run, in the terms the statements use. -/

namespace Sys2Proof.Machine

/-- A state in which every transaction is defined: its configuration meets 00_scope.md R9 and it meets 10_state.md R36. -/
abbrev State.Ready (s : State) : Prop := validConfig s.cfg = true ∧ invariantHolds s = true

/-- Both framebuffers are in canonical form: within their size, indexes rising, no clear pixel listed (log entry 13). -/
abbrev State.FbsCanonical (s : State) : Prop :=
  fbCanonical s.cfg.clearPixel (fbSize s.cfg) 0 s.fb0 = true ∧
  fbCanonical s.cfg.clearPixel (fbSize s.cfg) 0 s.fb1 = true

/-- The invariant of the machine: a ready state with canonical framebuffers. -/
abbrev State.Inv (s : State) : Prop := s.Ready ∧ s.FbsCanonical

/-- An outcome is not a fault. -/
def NoFault (o : Answer) : Prop := ∀ r, o ≠ .fault r

/-- How many events of a list satisfy a test. -/
def eventCount (p : Event → Bool) (es : List Event) : Nat := es.countP p

/-- `FrameReady(h)` for either buffer. -/
def isFrameReady (e : Event) : Bool := e == .frameReady 0 || e == .frameReady 1

/-- `Swap(b)` for either buffer. -/
def isSwap (e : Event) : Bool := e == .swap 0 || e == .swap 1

/-- `RenderLine(y, b)` for either buffer. -/
def isRenderOf (y : Nat) (e : Event) : Bool := e == .renderLine y 0 || e == .renderLine y 1

/-- `RenderLine(y, b)` for any line and buffer. -/
def isRender (e : Event) : Bool :=
  match e with
  | .renderLine _ _ => true
  | .irqVBlank => false
  | .irqStat _ => false
  | .hdmaChunk => false
  | .frameReady _ => false
  | .swap _ => false

/-- How many of the n ticks from a counter value enter HBLANK: those that reach offset `P_XFER_END` of a visible line, by
the table of 40_timing_fsm.md R102. -/
def hblankEntries (c : Config) (count n : Nat) : Nat :=
  (List.range n).countP fun k =>
    decide (lyOf c (count + k + 1) < c.visible) && decide (dotOf c (count + k + 1) = c.xferEnd)

/-- Two states agree on the state of the block itself: all but the framebuffers' pixels, the input line, the input
stream and the model's call counter. -/
def SameFsm (s t : State) : Prop :=
  t.cfg = s.cfg ∧ t.lcdc = s.lcdc ∧ t.statIe = s.statIe ∧ t.lyc = s.lyc ∧ t.cnt = s.cnt ∧ t.mode = s.mode ∧
  t.fbSel = s.fbSel

end Sys2Proof.Machine
end

