-- ==== Sys2Proof/Certificates/Slice0/Obligations.lean ====
section
/-! DEFINITION. The statements about the model, from the numbered rules of spec/. A state `s` with `s.Ready` has a configuration that meets 00_scope.md R9 and meets 10_state.md R36; `InvalidConfigurationIsRefused` and `BrokenInvariantIsTheFault` spell both out and say what happens otherwise. -/

open Sys2Proof Sys2Proof.Machine

/-! ### Encoding -/

/-- 30_encoding.md R70 to R76: the decoder reads back the word of every well-formed transaction, with every operand. -/
def Obligations.DecodeEncodeRoundTrip : Prop :=
  ∀ i : Instr, i.wellFormed = true → decode (encode i) = .ok i

/-- 30_encoding.md R70 to R76: a word that decodes is the one word of the transaction it decodes to. -/
def Obligations.DecodedWordIsTheOnlyEncoding : Prop :=
  ∀ (w : TxWord) (i : Instr), decode w = .ok i → i.wellFormed = true ∧ encode i = w

/-- 30_encoding.md R76 (the spec marks it as derived from R70): the words that decode are the words a row of the opcode
map matches, by mask and match; a word has one row at most, and it is the row of the transaction the word decodes to. -/
def Obligations.DecoderAcceptsTheOpcodeMap : Prop :=
  (∀ w : TxWord, (∃ i, decode w = .ok i) ↔ ∃ r ∈ opcodeRows, w &&& r.mask = r.pattern) ∧
  (∀ w : TxWord, ∀ r ∈ opcodeRows, ∀ q ∈ opcodeRows, w &&& r.mask = r.pattern → w &&& q.mask = q.pattern → r = q) ∧
  (∀ (w : TxWord) (i : Instr), ∀ r ∈ opcodeRows, decode w = .ok i → w &&& r.mask = r.pattern →
    r.mnemonic = mnemonic i)

/-- 30_encoding.md R77: which words are refused, each by name, and that a step on one gives no next state but the mark.
Which of the two names a word gets that falls under both is left open here (log entry 8). That the word's own refusal
comes first under a configuration that breaks 00_scope.md R9, and in a state that breaks 10_state.md R36, is the model's
choice (log entry 22). -/
def Obligations.RefusedWordsAreNamed : Prop :=
  ∀ w : TxWord,
    let kind := (w.extractLsb' 30 2).toNat
    let reserved := (kind ≤ 1 ∧ w.extractLsb' 16 14 ≠ 0#14) ∨ (kind = 0 ∧ w.extractLsb' 0 8 ≠ 0#8) ∨
      (kind = 3 ∧ w.extractLsb' 0 30 ≠ 0#30)
    let unowned := kind ≤ 1 ∧ w.extractLsb' 8 8 ∉ [0x40#8, 0x41#8, 0x44#8, 0x45#8]
    (decode w = .error .reservedBits → reserved) ∧
    (decode w = .error .unownedPort → unowned) ∧
    ((∃ e, decode w = .error e) ↔ reserved ∨ unowned) ∧
    (kind = 2 → decode w = .ok (.step (w.extractLsb' 0 30).toNat)) ∧
    (∀ (s : State) (rest : List Stimulus), s.input = .word w :: rest →
      (decode w = .error .reservedBits → step s = .refused .reservedBits) ∧
      (decode w = .error .unownedPort → step s = .refused .unownedPort))

/-- Words written out from 30_encoding.md R70 and R76 and from the vectors of 95_test_vectors.md. -/
def Obligations.WordsOfTheVectorsDecode : Prop :=
  decode 0b00000000000000000100000000000000#32 = .ok .rdLcdc ∧
  decode 0b01000000000000000100000000010001#32 = .ok (.wrLcdc 0x11#8) ∧
  decode 0b00000000000000000100000100000000#32 = .ok .rdStat ∧
  decode 0b01000000000000000100000111111111#32 = .ok (.wrStat 0xFF#8) ∧
  decode 0b00000000000000000100010000000000#32 = .ok .rdLy ∧
  decode 0b01000000000000000100010001010000#32 = .ok (.wrLy 0x50#8) ∧
  decode 0b00000000000000000100010100000000#32 = .ok .rdLyc ∧
  decode 0b01000000000000000100010100001010#32 = .ok (.wrLyc 0x0A#8) ∧
  decode 0b10000000000000010001001001010000#32 = .ok (.step 70224) ∧
  decode 0b11000000000000000000000000000000#32 = .ok .reset

/-- 30_encoding.md R78: RD, WR, STEP and RESET lines stand for the transactions of their names, with the operands of the
line; names and numbers of ports are equivalent; each pseudo-transaction is its expansion, LCD_OFF and LCD_ON the byte
with bit 7 cleared and set; whatever a line stands for, its word decodes to it. That a line outside R78's syntax (a port
the block does not own, a count of 2^30 or more) stands for none is the model's choice (log entry 19). -/
def Obligations.AssemblerLinesAreTransactions : Prop :=
  (∀ (c : Config) (l : AsmLine) (i : Instr), assemble c l = some i → decode (encode i) = .ok i) ∧
  (∀ (c : Config) (d : Byte),
    assemble c (.rd (.name .lcdc)) = some .rdLcdc ∧ assemble c (.wr (.name .lcdc) d) = some (.wrLcdc d) ∧
    assemble c (.rd (.name .stat)) = some .rdStat ∧ assemble c (.wr (.name .stat) d) = some (.wrStat d) ∧
    assemble c (.rd (.name .ly)) = some .rdLy ∧ assemble c (.wr (.name .ly) d) = some (.wrLy d) ∧
    assemble c (.rd (.name .lyc)) = some .rdLyc ∧ assemble c (.wr (.name .lyc) d) = some (.wrLyc d)) ∧
  (∀ (c : Config) (b d : Byte),
    (∀ p : Port, (b = match p with
        | .lcdc => 0x40#8
        | .stat => 0x41#8
        | .ly => 0x44#8
        | .lyc => 0x45#8) →
      assemble c (.rd (.number b)) = assemble c (.rd (.name p)) ∧
      assemble c (.wr (.number b) d) = assemble c (.wr (.name p) d)) ∧
    (b ∉ [0x40#8, 0x41#8, 0x44#8, 0x45#8] →
      assemble c (.rd (.number b)) = none ∧ assemble c (.wr (.number b) d) = none)) ∧
  (∀ (c : Config) (n : Nat), assemble c (.step n) = if n < 2 ^ 30 then some (.step n) else none) ∧
  (∀ c : Config, assemble c .reset = some .reset ∧ assemble c .nop = some (.step 0) ∧
    assemble c .line = (if c.linePeriod < 2 ^ 30 then some (.step c.linePeriod) else none) ∧
    assemble c .frame = (if framePeriod c < 2 ^ 30 then some (.step (framePeriod c)) else none)) ∧
  (∀ (c : Config) (d : Byte),
    (∃ e : Byte, assemble c (.lcdOff d) = some (.wrLcdc e) ∧ e.getLsbD 7 = false ∧
      e.extractLsb' 0 7 = d.extractLsb' 0 7) ∧
    (∃ e : Byte, assemble c (.lcdOn d) = some (.wrLcdc e) ∧ e.getLsbD 7 = true ∧
      e.extractLsb' 0 7 = d.extractLsb' 0 7))

/-! ### The step -/

/-- A step runs the delivered transaction: when the oldest stimulus is a word that decodes to i, the step is i on the
state without that word. With nothing pending, or at a change of the DMA line, the block's state stays (the model's
choice, log entries 1 and 11). -/
def Obligations.StepRunsTheDeliveredTransaction : Prop :=
  (∀ (s : State) (w : TxWord) (rest : List Stimulus) (i : Instr), s.input = .word w :: rest → decode w = .ok i →
    step s = exec i { s with input := rest }) ∧
  (∀ s : State, s.input = [] → step s = .next { s with events := [], result := none }) ∧
  (∀ (s : State) (level : Bool) (rest : List Stimulus), s.input = .hdma level :: rest →
    step s = .next { s with input := rest, hdmaActive := level, events := [], result := none }) ∧
  (∀ (s : State) (i : Instr), i.wellFormed = true → step (s.withFetchWord 32 (encode i).toNat) = exec i s)

/-- 20_memory.md R57: every step that goes on takes exactly the oldest stimulus, whatever the transaction is. -/
def Obligations.StepsConsumeInArrivalOrder : Prop :=
  ∀ s t : State, step s = .next t → t.input = s.input.tail

/-! ### Register access -/

/-- 41_register_access.md R141: RD LCDC. -/
def Obligations.RdLcdcReturnsTheStoredByte : Prop :=
  decode 0x00004000#32 = .ok .rdLcdc ∧
  (∀ s : State, s.Ready → exec .rdLcdc s = .next { s with events := [], result := some s.lcdc }) ∧
  (∀ (s : State) (d : Byte), s.Ready →
    ∃ t u, exec (.wrLcdc d) s = .next t ∧ exec .rdLcdc t = .next u ∧ u.result = some d)

/-- 41_register_access.md R142 and 40_timing_fsm.md R121: WR LCDC stores the byte; with bit 7 clear, whatever it was
before, it zeroes the counter and the mode and nothing else, with no event, and the next reads show it. -/
def Obligations.WrLcdcStoresAndResetsTimingWhenOff : Prop :=
  (∀ d : Byte, decode (0x40004000#32 ||| d.setWidth 32) = .ok (.wrLcdc d)) ∧
  (∀ (s : State) (d : Byte), s.Ready → d.getLsbD 7 = true →
    exec (.wrLcdc d) s = .next { s with lcdc := d, events := [], result := none }) ∧
  (∀ (s : State) (d : Byte), s.Ready → d.getLsbD 7 = false →
    exec (.wrLcdc d) s = .next { s with lcdc := d, cnt := 0, mode := .hblank, events := [], result := none }) ∧
  (∀ (s : State) (d : Byte), s.Ready → d.getLsbD 7 = false →
    ∃ t u v b, exec (.wrLcdc d) s = .next t ∧ exec .rdLy t = .next u ∧ u.result = some 0x00#8 ∧
      exec .rdStat t = .next v ∧ v.result = some b ∧ b.extractLsb' 0 2 = 0#2 ∧ b.getLsbD 2 = decide (s.lyc = 0#8))

/-- 41_register_access.md R144: RD STAT. Bit 7 is P_STAT_BIT7, bits 6..3 the enables, bit 2 LY == LYC, bits 1..0 the
stored mode by its code; the last clause is the rule's example. -/
def Obligations.RdStatAssemblesTheByte : Prop :=
  decode 0x00004100#32 = .ok .rdStat ∧
  (∀ s : State, s.Ready → ∃ v : Byte,
    exec .rdStat s = .next { s with events := [], result := some v } ∧
    v.getLsbD 7 = s.cfg.statBit7 ∧
    v.extractLsb' 3 4 = s.statIe ∧
    v.getLsbD 2 = decide ((s.cnt % (s.cfg.linePeriod * s.cfg.lines)) / s.cfg.linePeriod = s.lyc.toNat) ∧
    v.extractLsb' 0 2 = (match s.mode with
      | .hblank => 0#2
      | .vblank => 1#2
      | .oamSearch => 2#2
      | .pixelTransfer => 3#2)) ∧
  (∃ a b c, exec (.wrStat 0x40#8) State.reset = .next a ∧ exec (.step 1) a = .next b ∧ exec .rdStat b = .next c ∧
    c.result = some 0xC6#8)

/-- 41_register_access.md R145: WR STAT stores bits 6..3 and ignores bits 7, 2, 1 and 0; it raises nothing at once. -/
def Obligations.WrStatStoresTheEnables : Prop :=
  (∀ d : Byte, decode (0x40004100#32 ||| d.setWidth 32) = .ok (.wrStat d)) ∧
  (∀ (s : State) (d : Byte), s.Ready →
    exec (.wrStat d) s = .next { s with statIe := d.extractLsb' 3 4, events := [], result := none }) ∧
  (∀ (s : State) (d : Byte), s.Ready → ∃ t u v b a,
    exec .rdStat s = .next t ∧ t.result = some b ∧ exec (.wrStat d) s = .next u ∧ exec .rdStat u = .next v ∧
    v.result = some a ∧ a &&& 0x78#8 = d &&& 0x78#8 ∧ a &&& 0x87#8 = b &&& 0x87#8)

/-- 41_register_access.md R146: RD LY returns the scanline of the counter; 0 right after reset, right after a display-off
reset, and for the whole time the display is off under Freeze; P_LINES - 1 at most. -/
def Obligations.RdLyReturnsTheScanline : Prop :=
  decode 0x00004400#32 = .ok .rdLy ∧
  (∀ s : State, s.Ready → ∃ v : Byte,
    exec .rdLy s = .next { s with events := [], result := some v } ∧
    v.toNat = s.cnt / s.cfg.linePeriod ∧ v.toNat ≤ s.cfg.lines - 1 ∧
    (s.cfg.displayOffPolicy = .freeze → s.lcdc.getLsbD 7 = false → v = 0#8)) ∧
  (∀ s : State, s.Ready →
    ∃ t u, exec .reset s = .next t ∧ exec .rdLy t = .next u ∧ u.result = some 0x00#8) ∧
  (∀ (s : State) (d : Byte), s.Ready → d.getLsbD 7 = false →
    ∃ t u, exec (.wrLcdc d) s = .next t ∧ exec .rdLy t = .next u ∧ u.result = some 0x00#8) ∧
  (∀ s : State, s.Ready → s.cfg = Config.defaults → s.cnt = 65664 →
    ∃ t, exec .rdLy s = .next t ∧ t.result = some 0x90#8)

/-- 41_register_access.md R147: WR LY changes no state, so LY reads as before. -/
def Obligations.WrLyIsDiscarded : Prop :=
  (∀ d : Byte, decode (0x40004400#32 ||| d.setWidth 32) = .ok (.wrLy d)) ∧
  (∀ (s : State) (d : Byte), s.Ready → exec (.wrLy d) s = .next { s with events := [], result := none }) ∧
  (∀ (s : State) (d : Byte), s.Ready → ∃ t u v,
    exec .rdLy s = .next t ∧ exec (.wrLy d) s = .next u ∧ exec .rdLy u = .next v ∧ v.result = t.result)

/-- 41_register_access.md R148: RD LYC; every value reads back as written. -/
def Obligations.RdLycReturnsTheStoredByte : Prop :=
  decode 0x00004500#32 = .ok .rdLyc ∧
  (∀ s : State, s.Ready → exec .rdLyc s = .next { s with events := [], result := some s.lyc }) ∧
  (∀ (s : State) (d : Byte), s.Ready →
    ∃ t u, exec (.wrLyc d) s = .next t ∧ exec .rdLyc t = .next u ∧ u.result = some d)

/-- 41_register_access.md R149: WR LYC stores the byte, raises nothing, and the coincidence bit follows at once; a value
that is no line number makes it 0 whatever the counter becomes. -/
def Obligations.WrLycStoresAndMovesCoincidence : Prop :=
  (∀ d : Byte, decode (0x40004500#32 ||| d.setWidth 32) = .ok (.wrLyc d)) ∧
  (∀ (s : State) (d : Byte), s.Ready → exec (.wrLyc d) s = .next { s with lyc := d, events := [], result := none }) ∧
  (∀ (s : State) (d : Byte), s.Ready → ∃ t u b,
    exec (.wrLyc d) s = .next t ∧ exec .rdStat t = .next u ∧ u.result = some b ∧
    b.getLsbD 2 = decide (s.cnt / s.cfg.linePeriod = d.toNat)) ∧
  (∀ s : State, s.Ready → s.cfg.lines ≤ s.lyc.toNat → ∃ u b,
    exec .rdStat s = .next u ∧ u.result = some b ∧ b.getLsbD 2 = false)

/-- 41_register_access.md R140: no register access emits an event, calls a collaborator or advances the counter (WR LCDC
with bit 7 clear zeroes it), none stops in a ready state; a read repeated gives the same state and value. -/
def Obligations.RegisterAccessesAreQuiet : Prop :=
  (∀ (i : Instr) (s : State), i ≠ .reset → (∀ n, i ≠ .step n) → s.Ready → ∃ t, exec i s = .next t ∧
    t.events = [] ∧ t.calls = s.calls ∧ t.fb0 = s.fb0 ∧ t.fb1 = s.fb1 ∧ t.fbSel = s.fbSel ∧
    t.hdmaActive = s.hdmaActive ∧ t.input = s.input ∧
    (t.cnt = s.cnt ∨ (t.cnt = 0 ∧ ∃ d : Byte, i = .wrLcdc d ∧ d.getLsbD 7 = false))) ∧
  (∀ (i : Instr) (s : State), i ∈ [Instr.rdLcdc, .rdStat, .rdLy, .rdLyc] → s.Ready → ∃ v : Byte,
    exec i s = .next { s with events := [], result := some v } ∧
    exec i { s with events := [], result := some v } = .next { s with events := [], result := some v })

/-! ### Reset -/

/-- 70_reset_and_hazards.md R200: RESET in a ready state leaves the values of 10_state.md R35 with no event, every pixel
clear and the collaborators untouched; then STAT reads P_STAT_BIT7, COINC 1, mode 0, and with the defaults 0x84, and
LCDC 0x91. RESET in a state that is not ready is in `PowerOnIsTheResetState`. -/
def Obligations.ResetLeavesTheResetValues : Prop :=
  decode 0xC0000000#32 = .ok .reset ∧
  (∀ s : State, s.Ready → ∃ t, exec .reset s = .next t ∧
    t = { s with lcdc := s.cfg.lcdcReset, statIe := 0#4, lyc := 0x00#8, cnt := 0, mode := .hblank, fbSel := 0,
                 fb0 := t.fb0, fb1 := t.fb1, events := [], result := none } ∧
    ∀ (b : FbIndex) (i : Nat), i < s.cfg.width * s.cfg.visible → pixel t b i = some s.cfg.clearPixel) ∧
  (∀ s : State, s.Ready → ∃ t u v, exec .reset s = .next t ∧
    exec .rdStat t = .next u ∧ u.result = some (BitVec.ofBool s.cfg.statBit7 ++ 0b0000100#7) ∧
    exec .rdLcdc t = .next v ∧ v.result = some s.cfg.lcdcReset) ∧
  (∀ s : State, s.Ready → s.cfg = Config.defaults → ∃ t u v, exec .reset s = .next t ∧
    exec .rdStat t = .next u ∧ u.result = some 0x84#8 ∧ exec .rdLcdc t = .next v ∧ v.result = some 0x91#8)

/-- 70_reset_and_hazards.md R201: the initial state is a state RESET leaves, for every valid configuration; its mode is 0
and its interrupt sources are disabled. RESET reaches the block's reset values from every state, one that breaks
10_state.md R36 too (the model's reading of R203 and vector RS1, log entry 7). -/
def Obligations.PowerOnIsTheResetState : Prop :=
  (∀ c : Config, validConfig c = true → exec .reset (State.resetWith c) = .next (State.resetWith c)) ∧
  (∀ s : State, validConfig s.cfg = true → ∃ t, exec .reset s = .next t ∧
    SameFsm (State.resetWith s.cfg) t ∧ t.fb0 = (State.resetWith s.cfg).fb0 ∧ t.fb1 = (State.resetWith s.cfg).fb1 ∧
    t.events = [] ∧ t.result = none) ∧
  (∀ c : Config, (State.resetWith c).mode = .hblank ∧ (State.resetWith c).statIe = 0#4) ∧
  State.reset = State.resetWith Config.defaults

/-! ### The invariant -/

/-- 10_state.md R36: the reset state, and that of every valid configuration, meets the invariant. -/
def Obligations.ResetMeetsTheInvariant : Prop :=
  State.reset.Inv ∧ ∀ c : Config, validConfig c = true → (State.resetWith c).Inv

/-- 10_state.md R36, and the canonical form of the framebuffers (the model's, log entry 13): every step, on any stimulus,
keeps the invariant. -/
def Obligations.StepKeepsTheInvariant : Prop :=
  ∀ s t : State, s.Inv → step s = .next t → t.Inv

/-- 60_exceptions.md R172: no sequence of stimuli, of any kind and length, from the reset state of a valid configuration
reaches the fault. -/
def Obligations.NoRunFromResetFaults : Prop :=
  ∀ (c : Config) (input : List Stimulus) (k : Nat), validConfig c = true →
    NoFault (Host.Core.run core k { State.resetWith c with input := input })

/-- 60_exceptions.md R172 and 10_state.md R36, spelled out: under a valid configuration, a state that breaks R36 is the
fault for every transaction but RESET (the exception of RESET is the model's reading, log entries 6 and 7), and no
other state is. -/
def Obligations.BrokenInvariantIsTheFault : Prop :=
  ∀ s : State, validConfig s.cfg = true →
    let atReset := s.cnt = 0 ∧ s.mode = .hblank
    let good := s.cnt < s.cfg.linePeriod * s.cfg.lines ∧ (s.mode = modeOf s.cfg s.cnt ∨ atReset) ∧
      (s.cfg.displayOffPolicy = .freeze → s.lcdc.getLsbD 7 = false → atReset)
    (good ↔ s.Ready) ∧
    (¬ good → ∀ i : Instr, i ≠ .reset → exec i s = .fault .invariantViolation) ∧
    (good → ∀ i : Instr, NoFault (exec i s)) ∧
    NoFault (exec .reset s)

/-- 00_scope.md R9, spelled out: a configuration that breaks a constraint is refused by every transaction, and one that
meets them all by none. -/
def Obligations.InvalidConfigurationIsRefused : Prop :=
  ∀ (s : State) (i : Instr),
    let good := (0 < s.cfg.oamEnd ∧ s.cfg.oamEnd < s.cfg.xferEnd ∧ s.cfg.xferEnd < s.cfg.linePeriod) ∧
      (0 < s.cfg.visible ∧ s.cfg.visible < s.cfg.lines ∧ s.cfg.lines ≤ 256)
    (¬ good → exec i s = .refused .badConfiguration) ∧ (good → ∀ r, exec i s ≠ .refused r)

/-! ### The mode function and the tick -/

/-- 40_timing_fsm.md R101: the derived mode by line and offset, with half-open intervals, for every valid configuration. -/
def Obligations.ModeFollowsLineAndOffset : Prop :=
  ∀ (c : Config) (line dot : Nat), validConfig c = true → line < c.lines → dot < c.linePeriod →
    modeOf c (line * c.linePeriod + dot) =
      if c.visible ≤ line then .vblank
      else if dot < c.oamEnd then .oamSearch
      else if dot < c.xferEnd then .pixelTransfer
      else .hblank

/-- 40_timing_fsm.md R102 (the spec marks it as derived from R101 and R9): the counter values at which the mode changes,
and the mode each of them enters. -/
def Obligations.ModeChangesExactlyAtTheTabledCounts : Prop :=
  ∀ (c : Config) (n : Nat), validConfig c = true → n < framePeriod c →
    (modeOf c (nextCount c n) ≠ modeOf c n ↔
      ∃ line,
        (line < c.visible ∧ nextCount c n = line * c.linePeriod ∧ modeOf c (nextCount c n) = .oamSearch) ∨
        (line < c.visible ∧ nextCount c n = line * c.linePeriod + c.oamEnd ∧
          modeOf c (nextCount c n) = .pixelTransfer) ∨
        (line < c.visible ∧ nextCount c n = line * c.linePeriod + c.xferEnd ∧ modeOf c (nextCount c n) = .hblank) ∨
        (line = c.visible ∧ nextCount c n = line * c.linePeriod ∧ modeOf c (nextCount c n) = .vblank))

/-- 40_timing_fsm.md R110: one tick. The counter advances modulo the frame period and the mode becomes the derived one;
with no mode change nothing else happens; the registers stay in every case. -/
def Obligations.TickAdvancesCounterAndMode : Prop :=
  ∀ s : State, s.Ready → ticking s = true →
    let next := (s.cnt + 1) % (s.cfg.linePeriod * s.cfg.lines)
    (∃ t, exec (.step 1) s = .next t ∧ t.cnt = next ∧ t.mode = modeOf s.cfg next ∧
      t.cfg = s.cfg ∧ t.lcdc = s.lcdc ∧ t.statIe = s.statIe ∧ t.lyc = s.lyc ∧ t.input = s.input ∧ t.result = none) ∧
    (modeOf s.cfg next = s.mode →
      exec (.step 1) s = .next { s with cnt := next, events := [], result := none })

/-- 40_timing_fsm.md R113 and R116: HBLANK entry, on a visible line (R102). The HBLANK interrupt and the render need the
display on, the chunk only the input line (on CGB). The row rendered is row LY of the in-progress buffer, every pixel of
it is written and no other changes (R104). What is written is the free value of the renderer, indexed by the model's
call counter (log entries 9 and 12); that the input line can only fall, and by a chunk alone, is the model's choice
(log entries 10 and 11). -/
def Obligations.HblankEntryRendersAndRaises : Prop :=
  ∀ s : State, s.Inv → ticking s = true →
    modeOf s.cfg (nextCount s.cfg s.cnt) = .hblank → s.mode ≠ .hblank →
    let y := lyOf s.cfg (nextCount s.cfg s.cnt)
    let on := s.lcdc.getLsbD 7
    y < s.cfg.visible ∧
    (s.cfg.displayOffPolicy = .freeze → on = true) ∧
    ∃ t, exec (.step 1) s = .next t ∧
      t.events = (if s.statIe.getLsbD 0 = true ∧ on = true then [.irqStat .hbl] else []) ++
        (if on = true then [.renderLine y s.fbSel] else []) ++
        (if s.cfg.variant = .cgb ∧ s.hdmaActive = true then [.hdmaChunk] else []) ∧
      t = { s with cnt := nextCount s.cfg s.cnt, mode := .hblank, fb0 := t.fb0, fb1 := t.fb1,
                   hdmaActive := t.hdmaActive, events := t.events, result := none, calls := t.calls } ∧
      (t.hdmaActive = true → s.hdmaActive = true) ∧
      (t.hdmaActive ≠ s.hdmaActive → .hdmaChunk ∈ t.events) ∧
      (on = true → ∀ k, k < s.cfg.width →
        pixel t s.fbSel (y * s.cfg.width + k) = some (Config.renderPixel s.calls s.lcdc y s.fbSel k)) ∧
      (∀ (b : FbIndex) (i : Nat),
        ¬ (on = true ∧ b = s.fbSel ∧ y * s.cfg.width ≤ i ∧ i < y * s.cfg.width + s.cfg.width) →
        pixel t b i = pixel s b i)

/-- 40_timing_fsm.md R114: PIXEL_TRANSFER entry writes only the mode. -/
def Obligations.PixelTransferEntryHasNoSideEffect : Prop :=
  ∀ s : State, s.Ready → ticking s = true → modeOf s.cfg (nextCount s.cfg s.cnt) = .pixelTransfer →
    exec (.step 1) s =
      .next { s with cnt := nextCount s.cfg s.cnt, mode := .pixelTransfer, events := [], result := none }

/-- 40_timing_fsm.md R115: OAM_SEARCH entry raises the OAM source if enabled and then the LYC source if enabled with
coincidence at the new LY, whatever LCDC is; no other entry raises LYC. -/
def Obligations.OamSearchEntryRaisesOamThenLyc : Prop :=
  (∀ s : State, s.Ready → ticking s = true → modeOf s.cfg (nextCount s.cfg s.cnt) = .oamSearch → s.mode ≠ .oamSearch →
    let oam := s.statIe.getLsbD 2
    let lyc := s.statIe.getLsbD 3 && decide (lyOf s.cfg (nextCount s.cfg s.cnt) = s.lyc.toNat)
    ∃ t, exec (.step 1) s = .next t ∧
      t = { s with cnt := nextCount s.cfg s.cnt, mode := .oamSearch, result := none,
                   events := (if oam = true then [.irqStat .oam] else []) ++
                     (if lyc = true then [.irqStat .lyc] else []) } ∧
      irqStatStrobe t = (oam || lyc)) ∧
  (∀ s t : State, exec (.step 1) s = .next t → .irqStat .lyc ∈ t.events → s.mode ≠ .oamSearch ∧ t.mode = .oamSearch)

/-- 40_timing_fsm.md R117: VBLANK entry raises the fixed request and the VBLANK source if enabled, notifies with the
buffer just rendered, swaps, and clears the new in-progress buffer, whatever LCDC is; the buffer handed over keeps
every pixel. That the notification leaves the input line is the model's choice (log entry 11). -/
def Obligations.VblankEntryNotifiesAndSwaps : Prop :=
  ∀ s : State, s.Ready → ticking s = true →
    modeOf s.cfg (nextCount s.cfg s.cnt) = .vblank → s.mode ≠ .vblank →
    ∃ t, exec (.step 1) s = .next t ∧
      t = { s with cnt := nextCount s.cfg s.cnt, mode := .vblank, fbSel := 1 - s.fbSel, fb0 := t.fb0, fb1 := t.fb1,
                   events := [.irqVBlank] ++ (if s.statIe.getLsbD 1 = true then [.irqStat .vbl] else []) ++
                     [.frameReady s.fbSel, .swap (1 - s.fbSel)],
                   result := none, calls := t.calls } ∧
      irqVBlankStrobe t = true ∧
      (∀ i, i < s.cfg.width * s.cfg.visible → pixel t t.fbSel i = some s.cfg.clearPixel) ∧
      (∀ i, pixel t s.fbSel i = pixel s s.fbSel i)

/-! ### STEP -/

/-- 40_timing_fsm.md R118 and 70_reset_and_hazards.md R213: STEP n answers in every ready state, advances the counter by n
modulo the frame period, or by nothing while the display is off under Freeze, and leaves every register. That it never
raises the input line rests on 40_timing_fsm.md R104 and is the model's choice (log entries 10 and 11). -/
def Obligations.StepAdvancesByItsCount : Prop :=
  (∀ n : Nat, n < 2 ^ 30 → decode (0x80000000#32 ||| BitVec.ofNat 32 n) = .ok (.step n)) ∧
  (∀ (s : State) (n : Nat), s.Ready → ∃ t, exec (.step n) s = .next t ∧
    t.cnt = (if s.lcdc.getLsbD 7 = true ∨ s.cfg.displayOffPolicy = .runGated
      then (s.cnt + n) % (s.cfg.linePeriod * s.cfg.lines) else s.cnt) ∧
    t.cfg = s.cfg ∧ t.lcdc = s.lcdc ∧ t.statIe = s.statIe ∧ t.lyc = s.lyc ∧ t.input = s.input ∧ t.result = none ∧
    (t.hdmaActive = true → s.hdmaActive = true)) ∧
  (∀ s : State, s.Ready → exec (.step 0) s = .next { s with events := [], result := none }) ∧
  (∃ t, exec (.step 252) State.reset = .next t ∧ t.cnt = 252 ∧ t.mode = .hblank ∧ t.events = [.renderLine 0 0])

/-- 40_timing_fsm.md R119 (the spec marks it as derived from R118 and R104): STEP (n+m) reaches the state of STEP n then
STEP m, and its event list is the concatenation. R119 has the framebuffers and the collaborator calls the same too
"given deterministic collaborators": here they are, because the model fixes what each call does by free values of the
call's number (log entries 9, 10 and 12). -/
def Obligations.StepGranularityDoesNotMatter : Prop :=
  ∀ (s : State) (n m : Nat), s.Ready → ∃ t u v,
    exec (.step (n + m)) s = .next t ∧ exec (.step n) s = .next u ∧ exec (.step m) u = .next v ∧
    t = { v with events := u.events ++ v.events }

/-- 40_timing_fsm.md R120: with the display off, under Freeze nothing changes whatever the count; under RunGated a tick is
the tick of the display-on state with the same counter, less the HBLANK interrupt and the render. -/
def Obligations.DisplayOffPolicies : Prop :=
  (∀ (s : State) (n : Nat), s.Ready → s.lcdc.getLsbD 7 = false → s.cfg.displayOffPolicy = .freeze →
    s.cnt = 0 ∧ s.mode = .hblank ∧ exec (.step n) s = .next { s with events := [], result := none } ∧
    ∃ u, exec .rdLy s = .next u ∧ u.result = some 0x00#8) ∧
  (∀ s : State, s.Ready → s.lcdc.getLsbD 7 = false → s.cfg.displayOffPolicy = .runGated →
    ∃ t t', exec (.step 1) s = .next t ∧ exec (.step 1) { s with lcdc := s.lcdc ||| 0x80#8 } = .next t' ∧
      t.cnt = (s.cnt + 1) % (s.cfg.linePeriod * s.cfg.lines) ∧
      t.cnt = t'.cnt ∧ t.mode = t'.mode ∧ t.fbSel = t'.fbSel ∧
      t.events = t'.events.filter (fun e => !(e == .irqStat .hbl) && !isRender e) ∧
      ((∀ e ∈ t'.events, isRender e = false) → t.fb0 = t'.fb0 ∧ t.fb1 = t'.fb1))

/-- 40_timing_fsm.md R122 and R202 for P_OAM_END > 1 (the premise is the model's, log entry 17): the first tick from
counter 0 with the cleared mode enters OAM_SEARCH of line 0. -/
def Obligations.FirstTickAfterResetEntersOamSearch : Prop :=
  ∀ s : State, s.Ready → s.cnt = 0 → s.mode = .hblank → ticking s = true → 1 < s.cfg.oamEnd →
    exec (.step 1) s = .next { s with
      cnt := 1, mode := .oamSearch, result := none,
      events := (if s.statIe.getLsbD 2 = true then [.irqStat .oam] else []) ++
        (if s.statIe.getLsbD 3 = true ∧ s.lyc = 0#8 then [.irqStat .lyc] else []) }

/-- 41_register_access.md R143 (the spec marks it as derived; P_OAM_END > 1 is the model's premise, log entry 17): what a
write to LCDC and the tick after it do, by the old and the new value of bit 7 and by the policy. -/
def Obligations.LcdcWriteThenTick : Prop :=
  ∀ (s : State) (d : Byte), s.Ready → 1 < s.cfg.oamEnd → ∃ t u,
    exec (.wrLcdc d) s = .next t ∧ exec (.step 1) t = .next u ∧
    (d.getLsbD 7 = true → t.cnt = s.cnt ∧ t.mode = s.mode ∧ u.cnt = (s.cnt + 1) % (s.cfg.linePeriod * s.cfg.lines) ∧
      u.mode = modeOf s.cfg u.cnt) ∧
    (d.getLsbD 7 = true → s.lcdc.getLsbD 7 = false → s.cfg.displayOffPolicy = .freeze →
      u.cnt = 1 ∧ u.mode = .oamSearch) ∧
    (d.getLsbD 7 = false → t.cnt = 0 ∧ t.mode = .hblank) ∧
    (d.getLsbD 7 = false → s.cfg.displayOffPolicy = .freeze → u = t ∧ u.events = []) ∧
    (d.getLsbD 7 = false → s.cfg.displayOffPolicy = .runGated → u.cnt = 1 ∧ u.mode = .oamSearch)

/-! ### Whole-machine rules -/

/-- 40_timing_fsm.md R103 and 10_state.md R28: after every transaction, whatever it is, LY reads as the counter's scanline
and STAT bit 2 as LY == LYC. -/
def Obligations.ScanlineAndCoincidenceMirrorTheCounter : Prop :=
  ∀ (i : Instr) (s t : State), exec i s = .next t → ∃ u v a b,
    exec .rdLy t = .next u ∧ u.result = some a ∧
    a.toNat = (t.cnt % (t.cfg.linePeriod * t.cfg.lines)) / t.cfg.linePeriod ∧
    exec .rdStat t = .next v ∧ v.result = some b ∧ b.getLsbD 2 = decide (a = t.lyc)

/-- 10_state.md R25, R26 and R32: only STEP, RESET and a WR LCDC with bit 7 clear change the counter or the stored mode,
the last two to 0 and HBLANK. -/
def Obligations.OnlyTicksAndResetsMoveTheTimingState : Prop :=
  ∀ (i : Instr) (s t : State), exec i s = .next t → t.cnt ≠ s.cnt ∨ t.mode ≠ s.mode →
    (∃ n, i = .step n) ∨ (i = .reset ∧ t.cnt = 0 ∧ t.mode = .hblank) ∨
    (∃ d : Byte, i = .wrLcdc d ∧ d.getLsbD 7 = false ∧ t.cnt = 0 ∧ t.mode = .hblank)

/-- 10_state.md R21, R22, R24 and R29: which transaction writes each register, over all transactions; the configuration
is never written, and `fb_sel` changes at a swap or at RESET only. That the input line changes inside a transaction only
in a STEP with a chunk rests on 40_timing_fsm.md R104 and is the model's choice (log entries 10 and 11). -/
def Obligations.EachRegisterHasItsWriters : Prop :=
  ∀ (i : Instr) (s t : State), exec i s = .next t →
    t.cfg = s.cfg ∧ t.input = s.input ∧
    (t.lcdc ≠ s.lcdc → i = .wrLcdc t.lcdc ∨ i = .reset) ∧
    (t.statIe ≠ s.statIe → (∃ d : Byte, i = .wrStat d ∧ t.statIe = d.extractLsb' 3 4) ∨ i = .reset) ∧
    (t.lyc ≠ s.lyc → i = .wrLyc t.lyc ∨ i = .reset) ∧
    (t.fbSel ≠ s.fbSel → ((∃ n, i = .step n) ∧ ∃ e ∈ t.events, isSwap e = true) ∨ i = .reset) ∧
    (t.hdmaActive ≠ s.hdmaActive → (∃ n, i = .step n) ∧ .hdmaChunk ∈ t.events)

/-- 60_exceptions.md R184: a display that is off is turned on by a WR LCDC with bit 7 set, or by RESET where P_LCDC_RESET
has bit 7 set (the second case is the model's reading, log entry 20), and by no other step. -/
def Obligations.OnlyLcdcWritesWakeTheDisplay : Prop :=
  ∀ s t : State, step s = .next t → s.lcdc.getLsbD 7 = false → t.lcdc.getLsbD 7 = true →
    ∃ w rest, s.input = .word w :: rest ∧
      ((∃ d : Byte, decode w = .ok (.wrLcdc d) ∧ d.getLsbD 7 = true ∧ t.lcdc = d) ∨
       (decode w = .ok .reset ∧ s.cfg.lcdcReset.getLsbD 7 = true))

/-- 60_exceptions.md R173 and R175: over any STEP, a status event appears only if its enable is set, and that of HBLANK
only with the display on. -/
def Obligations.StatusRequestsNeedTheirEnable : Prop :=
  ∀ (s t : State) (n : Nat), exec (.step n) s = .next t →
    (.irqStat .hbl ∈ t.events → s.statIe.getLsbD 0 = true ∧ s.lcdc.getLsbD 7 = true) ∧
    (.irqStat .vbl ∈ t.events → s.statIe.getLsbD 1 = true) ∧
    (.irqStat .oam ∈ t.events → s.statIe.getLsbD 2 = true) ∧
    (.irqStat .lyc ∈ t.events → s.statIe.getLsbD 3 = true)

/-- 40_timing_fsm.md R125 (the spec marks it as derived from R115 and R102): LYC raises only for visible lines, and over a
frame or less at most once from a state at its derived mode. From any ready state it raises at most twice, and twice
only over a whole frame that starts at the reset point, where line 0 is entered by the first tick (R122; 10_state.md
R36) and again at the wrap, with LYC 0. -/
def Obligations.LycRaisesOnVisibleLinesOnly : Prop :=
  ∀ (s t : State) (n : Nat), exec (.step n) s = .next t →
    let raises := eventCount (fun e => e == .irqStat .lyc) t.events
    (.irqStat .lyc ∈ t.events → s.lyc.toNat < s.cfg.visible) ∧
    (n ≤ framePeriod s.cfg →
      (s.mode = modeOf s.cfg s.cnt → raises ≤ 1) ∧
      raises ≤ 2 ∧
      (1 < raises → n = framePeriod s.cfg ∧ s.cnt = 0 ∧ s.mode = .hblank ∧ s.lyc = 0#8))

/-- 40_timing_fsm.md R123 (the spec marks it as derived from R113 and R102): renders are asked for with the display on, for
visible lines, and over a frame or less at most once for each line. -/
def Obligations.RendersAreOfVisibleLinesOncePerFrame : Prop :=
  ∀ (s t : State) (n : Nat), exec (.step n) s = .next t →
    (∀ (y : Nat) (b : FbIndex), .renderLine y b ∈ t.events → s.lcdc.getLsbD 7 = true ∧ y < s.cfg.visible) ∧
    (n ≤ framePeriod s.cfg → ∀ y, eventCount (isRenderOf y) t.events ≤ 1)

/-- 40_timing_fsm.md R117 over any STEP: each VBLANK request comes with one notification and one swap, and `fb_sel` has
changed as often as there were swaps. -/
def Obligations.EveryVblankSwapsOnce : Prop :=
  ∀ (s t : State) (n : Nat), exec (.step n) s = .next t →
    let k := eventCount (fun e => e == .irqVBlank) t.events
    eventCount isFrameReady t.events = k ∧ eventCount isSwap t.events = k ∧
    t.fbSel.val = (s.fbSel.val + k) % 2

/-- The source's property S3 with 40_timing_fsm.md R118 and R124: a STEP of a whole frame from any ready state whose
counter runs has exactly one VBLANK request, one notification of the buffer just rendered and one swap, and brings
the counter back. -/
def Obligations.OneSwapPerFramePeriod : Prop :=
  ∀ s : State, s.Ready → ticking s = true → ∃ t, exec (.step (framePeriod s.cfg)) s = .next t ∧
    t.cnt = s.cnt ∧ t.fbSel = 1 - s.fbSel ∧
    t.events.filter (fun e => e == .irqVBlank || isFrameReady e || isSwap e) =
      [.irqVBlank, .frameReady s.fbSel, .swap (1 - s.fbSel)]

/-- 40_timing_fsm.md R124 (the spec marks it as derived): the events of one frame, by kind, with the display on, from a
state whose stored mode is the derived one. -/
def Obligations.FrameEmitsItsEvents : Prop :=
  ∀ s : State, s.Ready → s.lcdc.getLsbD 7 = true → s.mode = modeOf s.cfg s.cnt →
    ∃ t, exec (.step (framePeriod s.cfg)) s = .next t ∧ t.cnt = s.cnt ∧ t.fbSel = 1 - s.fbSel ∧
      eventCount (fun e => e == .irqVBlank) t.events = 1 ∧
      eventCount isFrameReady t.events = 1 ∧
      eventCount isSwap t.events = 1 ∧
      (∀ y, y < s.cfg.visible → eventCount (isRenderOf y) t.events = 1) ∧
      eventCount isRender t.events = s.cfg.visible ∧
      eventCount (fun e => e == .irqStat .hbl) t.events = (if s.statIe.getLsbD 0 = true then s.cfg.visible else 0) ∧
      eventCount (fun e => e == .irqStat .vbl) t.events = (if s.statIe.getLsbD 1 = true then 1 else 0) ∧
      eventCount (fun e => e == .irqStat .oam) t.events = (if s.statIe.getLsbD 2 = true then s.cfg.visible else 0) ∧
      eventCount (fun e => e == .irqStat .lyc) t.events =
        (if s.statIe.getLsbD 3 = true ∧ s.lyc.toNat < s.cfg.visible then 1 else 0)

/-- 20_memory.md R58 and 70_reset_and_hazards.md R210: no transaction but RESET changes a pixel of the complete framebuffer
or the roles of the buffers, unless it swaps. -/
def Obligations.CompleteBufferIsStableUntilTheSwap : Prop :=
  ∀ (i : Instr) (s t : State), i ≠ .reset → exec i s = .next t → (∀ e ∈ t.events, isSwap e = false) →
    t.fbSel = s.fbSel ∧ ∀ j, pixel t (1 - t.fbSel) j = pixel s (1 - s.fbSel) j

/-- 40_timing_fsm.md R116 over any STEP: no chunk on DMG or with the input line low; at most one for each HBLANK entry,
which are the ticks that reach offset P_XFER_END of a visible line (R102), with the display on or, under RunGated, off
(R120); with the display off under Freeze there is neither (70_reset_and_hazards.md R209). While the line stays high on
CGB there is one for every HBLANK entry. With the display on every HBLANK entry asks for one render. That nothing but a
chunk moves the line inside a STEP is the model's choice (log entries 10 and 11). -/
def Obligations.ChunksFollowTheHblankEntries : Prop :=
  ∀ (s t : State) (n : Nat), exec (.step n) s = .next t →
    let chunks := eventCount (fun e => e == .hdmaChunk) t.events
    let entries := if s.lcdc.getLsbD 7 = true ∨ s.cfg.displayOffPolicy = .runGated
      then hblankEntries s.cfg s.cnt n else 0
    (.hdmaChunk ∈ t.events → s.cfg.variant = .cgb ∧ s.hdmaActive = true) ∧
    chunks ≤ entries ∧
    (s.cfg.variant = .cgb → t.hdmaActive = true → chunks = entries) ∧
    (s.lcdc.getLsbD 7 = true → eventCount isRender t.events = entries)

/-- 40_timing_fsm.md R104: the state of the block after any transaction, its result and its events other than the chunk
triggers do not depend on what the collaborators did: the pixels, the input line, the call counter. -/
def Obligations.BlockDoesNotDependOnCollaborators : Prop :=
  ∀ (i : Instr) (s t s' t' : State), SameFsm s s' → exec i s = .next t → exec i s' = .next t' →
    SameFsm t t' ∧ t'.result = t.result ∧
    t'.events.filter (fun e => !(e == .hdmaChunk)) = t.events.filter (fun e => !(e == .hdmaChunk))
end

