-- ==== Sys2Proof/Laws/Decode.lean ====
section
/-! SUPPORT. The fields of an encoded word, and the port table in both directions (30_encoding.md R70 to R75). -/

namespace Sys2Proof

/-- The fields of a RD or WR word (R70). -/
theorem accessWord_fields (kind : BitVec 2) (p : Port) (data : Byte) :
    kindField (accessWord kind p data) = kind ∧ reservedField (accessWord kind p data) = 0#14 ∧
    portField (accessWord kind p data) = portNumber p ∧ dataField (accessWord kind p data) = data := by
  refine ⟨?_, ?_, ?_, ?_⟩ <;>
    (apply BitVec.eq_of_getLsbD_eq; intro i hi
     simp only [kindField, reservedField, portField, dataField, accessWord, BitVec.getLsbD_extractLsb',
       BitVec.getLsbD_append, hi, decide_true, Bool.true_and, BitVec.getLsbD_zero])
  · simp [show ¬ 30 + i < 8 by omega, show ¬ 30 + i - 8 < 8 by omega, show ¬ 30 + i - 8 - 8 < 14 by omega,
      show 30 + i - 8 - 8 - 14 = i by omega]
  · simp [show ¬ 16 + i < 8 by omega, show ¬ 16 + i - 8 < 8 by omega, show 16 + i - 8 - 8 < 14 by omega]
  · simp [show ¬ 8 + i < 8 by omega, show 8 + i - 8 = i by omega, show ¬ 8 ≤ i by omega]
  · simp [hi]

/-- The fields of a STEP or RESET word (R70). -/
theorem countWord_fields (kind : BitVec 2) (n : BitVec 30) :
    kindField (kind ++ n) = kind ∧ countField (kind ++ n) = n := by
  refine ⟨?_, ?_⟩ <;>
    (apply BitVec.eq_of_getLsbD_eq; intro i hi
     simp only [kindField, countField, BitVec.getLsbD_extractLsb', BitVec.getLsbD_append, hi, decide_true, Bool.true_and])
  · simp [show ¬ 30 + i < 30 by omega, show 30 + i - 30 = i by omega]
  · simp [hi]

/-- The port table reads back (10_state.md R20). -/
theorem portOf_portNumber (p : Port) : portOf (portNumber p) = some p := by cases p <;> rfl

/-- A port that names a register is that register's number. -/
theorem portNumber_of_portOf {b : Byte} {p : Port} (h : portOf b = some p) : portNumber p = b := by
  unfold portOf at h
  split at h
  · injection h with h; subst h; symm; assumption
  split at h
  · injection h with h; subst h; symm; assumption
  split at h
  · injection h with h; subst h; symm; assumption
  split at h
  · injection h with h; subst h; symm; assumption
  · cases h

/-- A RD or WR word is the word of its four fields. -/
theorem word_of_access_fields (w : TxWord) :
    w = kindField w ++ reservedField w ++ portField w ++ dataField w := by
  apply BitVec.eq_of_getLsbD_eq
  intro i hi
  simp only [kindField, reservedField, portField, dataField, BitVec.getLsbD_append, BitVec.getLsbD_extractLsb']
  by_cases h1 : i < 8
  · simp [h1]
  · by_cases h2 : i - 8 < 8
    · simp [h1, h2, show 8 + (i - 8) = i by omega]
    · by_cases h3 : i - 8 - 8 < 14
      · simp [h1, h2, h3, show 16 + (i - 8 - 8) = i by omega]
      · simp [h1, h2, h3, show i - 8 - 8 - 14 < 2 by omega, show 30 + (i - 8 - 8 - 14) = i by omega]

/-- A STEP or RESET word is the word of its two fields. -/
theorem word_of_count_fields (w : TxWord) : w = kindField w ++ countField w := by
  apply BitVec.eq_of_getLsbD_eq
  intro i hi
  simp only [kindField, countField, BitVec.getLsbD_append, BitVec.getLsbD_extractLsb']
  by_cases h1 : i < 30
  · simp [h1]
  · simp [h1, show i - 30 < 2 by omega, show 30 + (i - 30) = i by omega]

/-- The kind has four values (R71). -/
theorem kind_cases (k : BitVec 2) : k = 0#2 ∨ k = 1#2 ∨ k = 2#2 ∨ k = 3#2 := by
  revert k; decide

end Sys2Proof
end

