-- ==== Sys2Proof/Laws/State.lean ====
section
/-! SUPPORT. One lemma per field per state update, true by rfl, so that no later proof unfolds an update. -/

namespace Sys2Proof.Machine

/-- A state with another event list: what a mode entry does to the outputs, and nothing else. -/
def withEvents (es : List Event) (s : State) : State := { s with events := es }

@[simp] theorem setLcdc_cfg (v : Byte) (s : State) : (setLcdc v s).cfg = s.cfg := rfl
@[simp] theorem setLcdc_lcdc (v : Byte) (s : State) : (setLcdc v s).lcdc = v := rfl
@[simp] theorem setLcdc_statIe (v : Byte) (s : State) : (setLcdc v s).statIe = s.statIe := rfl
@[simp] theorem setLcdc_lyc (v : Byte) (s : State) : (setLcdc v s).lyc = s.lyc := rfl
@[simp] theorem setLcdc_cnt (v : Byte) (s : State) : (setLcdc v s).cnt = s.cnt := rfl
@[simp] theorem setLcdc_mode (v : Byte) (s : State) : (setLcdc v s).mode = s.mode := rfl
@[simp] theorem setLcdc_fbSel (v : Byte) (s : State) : (setLcdc v s).fbSel = s.fbSel := rfl
@[simp] theorem setLcdc_fb0 (v : Byte) (s : State) : (setLcdc v s).fb0 = s.fb0 := rfl
@[simp] theorem setLcdc_fb1 (v : Byte) (s : State) : (setLcdc v s).fb1 = s.fb1 := rfl
@[simp] theorem setLcdc_hdmaActive (v : Byte) (s : State) : (setLcdc v s).hdmaActive = s.hdmaActive := rfl
@[simp] theorem setLcdc_input (v : Byte) (s : State) : (setLcdc v s).input = s.input := rfl
@[simp] theorem setLcdc_events (v : Byte) (s : State) : (setLcdc v s).events = s.events := rfl
@[simp] theorem setLcdc_result (v : Byte) (s : State) : (setLcdc v s).result = s.result := rfl
@[simp] theorem setLcdc_calls (v : Byte) (s : State) : (setLcdc v s).calls = s.calls := rfl

@[simp] theorem setStatIe_cfg (v : BitVec 4) (s : State) : (setStatIe v s).cfg = s.cfg := rfl
@[simp] theorem setStatIe_lcdc (v : BitVec 4) (s : State) : (setStatIe v s).lcdc = s.lcdc := rfl
@[simp] theorem setStatIe_statIe (v : BitVec 4) (s : State) : (setStatIe v s).statIe = v := rfl
@[simp] theorem setStatIe_lyc (v : BitVec 4) (s : State) : (setStatIe v s).lyc = s.lyc := rfl
@[simp] theorem setStatIe_cnt (v : BitVec 4) (s : State) : (setStatIe v s).cnt = s.cnt := rfl
@[simp] theorem setStatIe_mode (v : BitVec 4) (s : State) : (setStatIe v s).mode = s.mode := rfl
@[simp] theorem setStatIe_fbSel (v : BitVec 4) (s : State) : (setStatIe v s).fbSel = s.fbSel := rfl
@[simp] theorem setStatIe_fb0 (v : BitVec 4) (s : State) : (setStatIe v s).fb0 = s.fb0 := rfl
@[simp] theorem setStatIe_fb1 (v : BitVec 4) (s : State) : (setStatIe v s).fb1 = s.fb1 := rfl
@[simp] theorem setStatIe_hdmaActive (v : BitVec 4) (s : State) : (setStatIe v s).hdmaActive = s.hdmaActive := rfl
@[simp] theorem setStatIe_input (v : BitVec 4) (s : State) : (setStatIe v s).input = s.input := rfl
@[simp] theorem setStatIe_events (v : BitVec 4) (s : State) : (setStatIe v s).events = s.events := rfl
@[simp] theorem setStatIe_result (v : BitVec 4) (s : State) : (setStatIe v s).result = s.result := rfl
@[simp] theorem setStatIe_calls (v : BitVec 4) (s : State) : (setStatIe v s).calls = s.calls := rfl

@[simp] theorem setLyc_cfg (v : Byte) (s : State) : (setLyc v s).cfg = s.cfg := rfl
@[simp] theorem setLyc_lcdc (v : Byte) (s : State) : (setLyc v s).lcdc = s.lcdc := rfl
@[simp] theorem setLyc_statIe (v : Byte) (s : State) : (setLyc v s).statIe = s.statIe := rfl
@[simp] theorem setLyc_lyc (v : Byte) (s : State) : (setLyc v s).lyc = v := rfl
@[simp] theorem setLyc_cnt (v : Byte) (s : State) : (setLyc v s).cnt = s.cnt := rfl
@[simp] theorem setLyc_mode (v : Byte) (s : State) : (setLyc v s).mode = s.mode := rfl
@[simp] theorem setLyc_fbSel (v : Byte) (s : State) : (setLyc v s).fbSel = s.fbSel := rfl
@[simp] theorem setLyc_fb0 (v : Byte) (s : State) : (setLyc v s).fb0 = s.fb0 := rfl
@[simp] theorem setLyc_fb1 (v : Byte) (s : State) : (setLyc v s).fb1 = s.fb1 := rfl
@[simp] theorem setLyc_hdmaActive (v : Byte) (s : State) : (setLyc v s).hdmaActive = s.hdmaActive := rfl
@[simp] theorem setLyc_input (v : Byte) (s : State) : (setLyc v s).input = s.input := rfl
@[simp] theorem setLyc_events (v : Byte) (s : State) : (setLyc v s).events = s.events := rfl
@[simp] theorem setLyc_result (v : Byte) (s : State) : (setLyc v s).result = s.result := rfl
@[simp] theorem setLyc_calls (v : Byte) (s : State) : (setLyc v s).calls = s.calls := rfl

@[simp] theorem setCnt_cfg (n : Nat) (s : State) : (setCnt n s).cfg = s.cfg := rfl
@[simp] theorem setCnt_lcdc (n : Nat) (s : State) : (setCnt n s).lcdc = s.lcdc := rfl
@[simp] theorem setCnt_statIe (n : Nat) (s : State) : (setCnt n s).statIe = s.statIe := rfl
@[simp] theorem setCnt_lyc (n : Nat) (s : State) : (setCnt n s).lyc = s.lyc := rfl
@[simp] theorem setCnt_cnt (n : Nat) (s : State) : (setCnt n s).cnt = n := rfl
@[simp] theorem setCnt_mode (n : Nat) (s : State) : (setCnt n s).mode = s.mode := rfl
@[simp] theorem setCnt_fbSel (n : Nat) (s : State) : (setCnt n s).fbSel = s.fbSel := rfl
@[simp] theorem setCnt_fb0 (n : Nat) (s : State) : (setCnt n s).fb0 = s.fb0 := rfl
@[simp] theorem setCnt_fb1 (n : Nat) (s : State) : (setCnt n s).fb1 = s.fb1 := rfl
@[simp] theorem setCnt_hdmaActive (n : Nat) (s : State) : (setCnt n s).hdmaActive = s.hdmaActive := rfl
@[simp] theorem setCnt_input (n : Nat) (s : State) : (setCnt n s).input = s.input := rfl
@[simp] theorem setCnt_events (n : Nat) (s : State) : (setCnt n s).events = s.events := rfl
@[simp] theorem setCnt_result (n : Nat) (s : State) : (setCnt n s).result = s.result := rfl
@[simp] theorem setCnt_calls (n : Nat) (s : State) : (setCnt n s).calls = s.calls := rfl

@[simp] theorem setMode_cfg (m : Mode) (s : State) : (setMode m s).cfg = s.cfg := rfl
@[simp] theorem setMode_lcdc (m : Mode) (s : State) : (setMode m s).lcdc = s.lcdc := rfl
@[simp] theorem setMode_statIe (m : Mode) (s : State) : (setMode m s).statIe = s.statIe := rfl
@[simp] theorem setMode_lyc (m : Mode) (s : State) : (setMode m s).lyc = s.lyc := rfl
@[simp] theorem setMode_cnt (m : Mode) (s : State) : (setMode m s).cnt = s.cnt := rfl
@[simp] theorem setMode_mode (m : Mode) (s : State) : (setMode m s).mode = m := rfl
@[simp] theorem setMode_fbSel (m : Mode) (s : State) : (setMode m s).fbSel = s.fbSel := rfl
@[simp] theorem setMode_fb0 (m : Mode) (s : State) : (setMode m s).fb0 = s.fb0 := rfl
@[simp] theorem setMode_fb1 (m : Mode) (s : State) : (setMode m s).fb1 = s.fb1 := rfl
@[simp] theorem setMode_hdmaActive (m : Mode) (s : State) : (setMode m s).hdmaActive = s.hdmaActive := rfl
@[simp] theorem setMode_input (m : Mode) (s : State) : (setMode m s).input = s.input := rfl
@[simp] theorem setMode_events (m : Mode) (s : State) : (setMode m s).events = s.events := rfl
@[simp] theorem setMode_result (m : Mode) (s : State) : (setMode m s).result = s.result := rfl
@[simp] theorem setMode_calls (m : Mode) (s : State) : (setMode m s).calls = s.calls := rfl

@[simp] theorem setFbSel_cfg (b : FbIndex) (s : State) : (setFbSel b s).cfg = s.cfg := rfl
@[simp] theorem setFbSel_lcdc (b : FbIndex) (s : State) : (setFbSel b s).lcdc = s.lcdc := rfl
@[simp] theorem setFbSel_statIe (b : FbIndex) (s : State) : (setFbSel b s).statIe = s.statIe := rfl
@[simp] theorem setFbSel_lyc (b : FbIndex) (s : State) : (setFbSel b s).lyc = s.lyc := rfl
@[simp] theorem setFbSel_cnt (b : FbIndex) (s : State) : (setFbSel b s).cnt = s.cnt := rfl
@[simp] theorem setFbSel_mode (b : FbIndex) (s : State) : (setFbSel b s).mode = s.mode := rfl
@[simp] theorem setFbSel_fbSel (b : FbIndex) (s : State) : (setFbSel b s).fbSel = b := rfl
@[simp] theorem setFbSel_fb0 (b : FbIndex) (s : State) : (setFbSel b s).fb0 = s.fb0 := rfl
@[simp] theorem setFbSel_fb1 (b : FbIndex) (s : State) : (setFbSel b s).fb1 = s.fb1 := rfl
@[simp] theorem setFbSel_hdmaActive (b : FbIndex) (s : State) : (setFbSel b s).hdmaActive = s.hdmaActive := rfl
@[simp] theorem setFbSel_input (b : FbIndex) (s : State) : (setFbSel b s).input = s.input := rfl
@[simp] theorem setFbSel_events (b : FbIndex) (s : State) : (setFbSel b s).events = s.events := rfl
@[simp] theorem setFbSel_result (b : FbIndex) (s : State) : (setFbSel b s).result = s.result := rfl
@[simp] theorem setFbSel_calls (b : FbIndex) (s : State) : (setFbSel b s).calls = s.calls := rfl

@[simp] theorem withEvents_cfg (es : List Event) (s : State) : (withEvents es s).cfg = s.cfg := rfl
@[simp] theorem withEvents_lcdc (es : List Event) (s : State) : (withEvents es s).lcdc = s.lcdc := rfl
@[simp] theorem withEvents_statIe (es : List Event) (s : State) : (withEvents es s).statIe = s.statIe := rfl
@[simp] theorem withEvents_lyc (es : List Event) (s : State) : (withEvents es s).lyc = s.lyc := rfl
@[simp] theorem withEvents_cnt (es : List Event) (s : State) : (withEvents es s).cnt = s.cnt := rfl
@[simp] theorem withEvents_mode (es : List Event) (s : State) : (withEvents es s).mode = s.mode := rfl
@[simp] theorem withEvents_fbSel (es : List Event) (s : State) : (withEvents es s).fbSel = s.fbSel := rfl
@[simp] theorem withEvents_fb0 (es : List Event) (s : State) : (withEvents es s).fb0 = s.fb0 := rfl
@[simp] theorem withEvents_fb1 (es : List Event) (s : State) : (withEvents es s).fb1 = s.fb1 := rfl
@[simp] theorem withEvents_hdmaActive (es : List Event) (s : State) : (withEvents es s).hdmaActive = s.hdmaActive := rfl
@[simp] theorem withEvents_input (es : List Event) (s : State) : (withEvents es s).input = s.input := rfl
@[simp] theorem withEvents_events (es : List Event) (s : State) : (withEvents es s).events = es := rfl
@[simp] theorem withEvents_result (es : List Event) (s : State) : (withEvents es s).result = s.result := rfl
@[simp] theorem withEvents_calls (es : List Event) (s : State) : (withEvents es s).calls = s.calls := rfl

@[simp] theorem quiet_cfg (s : State) : (quiet s).cfg = s.cfg := rfl
@[simp] theorem quiet_lcdc (s : State) : (quiet s).lcdc = s.lcdc := rfl
@[simp] theorem quiet_statIe (s : State) : (quiet s).statIe = s.statIe := rfl
@[simp] theorem quiet_lyc (s : State) : (quiet s).lyc = s.lyc := rfl
@[simp] theorem quiet_cnt (s : State) : (quiet s).cnt = s.cnt := rfl
@[simp] theorem quiet_mode (s : State) : (quiet s).mode = s.mode := rfl
@[simp] theorem quiet_fbSel (s : State) : (quiet s).fbSel = s.fbSel := rfl
@[simp] theorem quiet_fb0 (s : State) : (quiet s).fb0 = s.fb0 := rfl
@[simp] theorem quiet_fb1 (s : State) : (quiet s).fb1 = s.fb1 := rfl
@[simp] theorem quiet_hdmaActive (s : State) : (quiet s).hdmaActive = s.hdmaActive := rfl
@[simp] theorem quiet_input (s : State) : (quiet s).input = s.input := rfl
@[simp] theorem quiet_events (s : State) : (quiet s).events = [] := rfl
@[simp] theorem quiet_result (s : State) : (quiet s).result = none := rfl
@[simp] theorem quiet_calls (s : State) : (quiet s).calls = s.calls := rfl

@[simp] theorem emit_cfg (e : Event) (s : State) : (emit e s).cfg = s.cfg := rfl
@[simp] theorem emit_lcdc (e : Event) (s : State) : (emit e s).lcdc = s.lcdc := rfl
@[simp] theorem emit_statIe (e : Event) (s : State) : (emit e s).statIe = s.statIe := rfl
@[simp] theorem emit_lyc (e : Event) (s : State) : (emit e s).lyc = s.lyc := rfl
@[simp] theorem emit_cnt (e : Event) (s : State) : (emit e s).cnt = s.cnt := rfl
@[simp] theorem emit_mode (e : Event) (s : State) : (emit e s).mode = s.mode := rfl
@[simp] theorem emit_fbSel (e : Event) (s : State) : (emit e s).fbSel = s.fbSel := rfl
@[simp] theorem emit_fb0 (e : Event) (s : State) : (emit e s).fb0 = s.fb0 := rfl
@[simp] theorem emit_fb1 (e : Event) (s : State) : (emit e s).fb1 = s.fb1 := rfl
@[simp] theorem emit_hdmaActive (e : Event) (s : State) : (emit e s).hdmaActive = s.hdmaActive := rfl
@[simp] theorem emit_input (e : Event) (s : State) : (emit e s).input = s.input := rfl
@[simp] theorem emit_events (e : Event) (s : State) : (emit e s).events = s.events ++ [e] := rfl
@[simp] theorem emit_result (e : Event) (s : State) : (emit e s).result = s.result := rfl
@[simp] theorem emit_calls (e : Event) (s : State) : (emit e s).calls = s.calls := rfl

@[simp] theorem answerByte_cfg (v : Byte) (s : State) : (answerByte v s).cfg = s.cfg := rfl
@[simp] theorem answerByte_lcdc (v : Byte) (s : State) : (answerByte v s).lcdc = s.lcdc := rfl
@[simp] theorem answerByte_statIe (v : Byte) (s : State) : (answerByte v s).statIe = s.statIe := rfl
@[simp] theorem answerByte_lyc (v : Byte) (s : State) : (answerByte v s).lyc = s.lyc := rfl
@[simp] theorem answerByte_cnt (v : Byte) (s : State) : (answerByte v s).cnt = s.cnt := rfl
@[simp] theorem answerByte_mode (v : Byte) (s : State) : (answerByte v s).mode = s.mode := rfl
@[simp] theorem answerByte_fbSel (v : Byte) (s : State) : (answerByte v s).fbSel = s.fbSel := rfl
@[simp] theorem answerByte_fb0 (v : Byte) (s : State) : (answerByte v s).fb0 = s.fb0 := rfl
@[simp] theorem answerByte_fb1 (v : Byte) (s : State) : (answerByte v s).fb1 = s.fb1 := rfl
@[simp] theorem answerByte_hdmaActive (v : Byte) (s : State) : (answerByte v s).hdmaActive = s.hdmaActive := rfl
@[simp] theorem answerByte_input (v : Byte) (s : State) : (answerByte v s).input = s.input := rfl
@[simp] theorem answerByte_events (v : Byte) (s : State) : (answerByte v s).events = s.events := rfl
@[simp] theorem answerByte_result (v : Byte) (s : State) : (answerByte v s).result = some v := rfl
@[simp] theorem answerByte_calls (v : Byte) (s : State) : (answerByte v s).calls = s.calls := rfl

@[simp] theorem setFb_cfg (b : FbIndex) (m : Fb) (s : State) : (setFb b m s).cfg = s.cfg := rfl
@[simp] theorem setFb_lcdc (b : FbIndex) (m : Fb) (s : State) : (setFb b m s).lcdc = s.lcdc := rfl
@[simp] theorem setFb_statIe (b : FbIndex) (m : Fb) (s : State) : (setFb b m s).statIe = s.statIe := rfl
@[simp] theorem setFb_lyc (b : FbIndex) (m : Fb) (s : State) : (setFb b m s).lyc = s.lyc := rfl
@[simp] theorem setFb_cnt (b : FbIndex) (m : Fb) (s : State) : (setFb b m s).cnt = s.cnt := rfl
@[simp] theorem setFb_mode (b : FbIndex) (m : Fb) (s : State) : (setFb b m s).mode = s.mode := rfl
@[simp] theorem setFb_fbSel (b : FbIndex) (m : Fb) (s : State) : (setFb b m s).fbSel = s.fbSel := rfl
@[simp] theorem setFb_fb0 (b : FbIndex) (m : Fb) (s : State) : (setFb b m s).fb0 = if b = 0 then m else s.fb0 := rfl
@[simp] theorem setFb_fb1 (b : FbIndex) (m : Fb) (s : State) : (setFb b m s).fb1 = if b = 0 then s.fb1 else m := rfl
@[simp] theorem setFb_hdmaActive (b : FbIndex) (m : Fb) (s : State) : (setFb b m s).hdmaActive = s.hdmaActive := rfl
@[simp] theorem setFb_input (b : FbIndex) (m : Fb) (s : State) : (setFb b m s).input = s.input := rfl
@[simp] theorem setFb_events (b : FbIndex) (m : Fb) (s : State) : (setFb b m s).events = s.events := rfl
@[simp] theorem setFb_result (b : FbIndex) (m : Fb) (s : State) : (setFb b m s).result = s.result := rfl
@[simp] theorem setFb_calls (b : FbIndex) (m : Fb) (s : State) : (setFb b m s).calls = s.calls := rfl

@[simp] theorem clearFb_cfg (b : FbIndex) (s : State) : (clearFb b s).cfg = s.cfg := rfl
@[simp] theorem clearFb_lcdc (b : FbIndex) (s : State) : (clearFb b s).lcdc = s.lcdc := rfl
@[simp] theorem clearFb_statIe (b : FbIndex) (s : State) : (clearFb b s).statIe = s.statIe := rfl
@[simp] theorem clearFb_lyc (b : FbIndex) (s : State) : (clearFb b s).lyc = s.lyc := rfl
@[simp] theorem clearFb_cnt (b : FbIndex) (s : State) : (clearFb b s).cnt = s.cnt := rfl
@[simp] theorem clearFb_mode (b : FbIndex) (s : State) : (clearFb b s).mode = s.mode := rfl
@[simp] theorem clearFb_fbSel (b : FbIndex) (s : State) : (clearFb b s).fbSel = s.fbSel := rfl
@[simp] theorem clearFb_fb0 (b : FbIndex) (s : State) : (clearFb b s).fb0 = if b = 0 then [] else s.fb0 := rfl
@[simp] theorem clearFb_fb1 (b : FbIndex) (s : State) : (clearFb b s).fb1 = if b = 0 then s.fb1 else [] := rfl
@[simp] theorem clearFb_hdmaActive (b : FbIndex) (s : State) : (clearFb b s).hdmaActive = s.hdmaActive := rfl
@[simp] theorem clearFb_input (b : FbIndex) (s : State) : (clearFb b s).input = s.input := rfl
@[simp] theorem clearFb_events (b : FbIndex) (s : State) : (clearFb b s).events = s.events := rfl
@[simp] theorem clearFb_result (b : FbIndex) (s : State) : (clearFb b s).result = s.result := rfl
@[simp] theorem clearFb_calls (b : FbIndex) (s : State) : (clearFb b s).calls = s.calls := rfl

@[simp] theorem callRender_cfg (y : Nat) (b : FbIndex) (s : State) : (callRender y b s).cfg = s.cfg := rfl
@[simp] theorem callRender_lcdc (y : Nat) (b : FbIndex) (s : State) : (callRender y b s).lcdc = s.lcdc := rfl
@[simp] theorem callRender_statIe (y : Nat) (b : FbIndex) (s : State) : (callRender y b s).statIe = s.statIe := rfl
@[simp] theorem callRender_lyc (y : Nat) (b : FbIndex) (s : State) : (callRender y b s).lyc = s.lyc := rfl
@[simp] theorem callRender_cnt (y : Nat) (b : FbIndex) (s : State) : (callRender y b s).cnt = s.cnt := rfl
@[simp] theorem callRender_mode (y : Nat) (b : FbIndex) (s : State) : (callRender y b s).mode = s.mode := rfl
@[simp] theorem callRender_fbSel (y : Nat) (b : FbIndex) (s : State) : (callRender y b s).fbSel = s.fbSel := rfl
@[simp] theorem callRender_hdmaActive (y : Nat) (b : FbIndex) (s : State) : (callRender y b s).hdmaActive = s.hdmaActive := rfl
@[simp] theorem callRender_input (y : Nat) (b : FbIndex) (s : State) : (callRender y b s).input = s.input := rfl
@[simp] theorem callRender_events (y : Nat) (b : FbIndex) (s : State) : (callRender y b s).events = s.events := rfl
@[simp] theorem callRender_result (y : Nat) (b : FbIndex) (s : State) : (callRender y b s).result = s.result := rfl
@[simp] theorem callRender_calls (y : Nat) (b : FbIndex) (s : State) : (callRender y b s).calls = s.calls + 1 := rfl

@[simp] theorem callHdmaChunk_cfg (s : State) : (callHdmaChunk s).cfg = s.cfg := rfl
@[simp] theorem callHdmaChunk_lcdc (s : State) : (callHdmaChunk s).lcdc = s.lcdc := rfl
@[simp] theorem callHdmaChunk_statIe (s : State) : (callHdmaChunk s).statIe = s.statIe := rfl
@[simp] theorem callHdmaChunk_lyc (s : State) : (callHdmaChunk s).lyc = s.lyc := rfl
@[simp] theorem callHdmaChunk_cnt (s : State) : (callHdmaChunk s).cnt = s.cnt := rfl
@[simp] theorem callHdmaChunk_mode (s : State) : (callHdmaChunk s).mode = s.mode := rfl
@[simp] theorem callHdmaChunk_fbSel (s : State) : (callHdmaChunk s).fbSel = s.fbSel := rfl
@[simp] theorem callHdmaChunk_fb0 (s : State) : (callHdmaChunk s).fb0 = s.fb0 := rfl
@[simp] theorem callHdmaChunk_fb1 (s : State) : (callHdmaChunk s).fb1 = s.fb1 := rfl
@[simp] theorem callHdmaChunk_hdmaActive (s : State) : (callHdmaChunk s).hdmaActive = (s.hdmaActive && !Config.chunkEndsTransfer s.calls) := rfl
@[simp] theorem callHdmaChunk_input (s : State) : (callHdmaChunk s).input = s.input := rfl
@[simp] theorem callHdmaChunk_events (s : State) : (callHdmaChunk s).events = s.events := rfl
@[simp] theorem callHdmaChunk_result (s : State) : (callHdmaChunk s).result = s.result := rfl
@[simp] theorem callHdmaChunk_calls (s : State) : (callHdmaChunk s).calls = s.calls + 1 := rfl

@[simp] theorem callFrameReady_cfg (s : State) : (callFrameReady s).cfg = s.cfg := rfl
@[simp] theorem callFrameReady_lcdc (s : State) : (callFrameReady s).lcdc = s.lcdc := rfl
@[simp] theorem callFrameReady_statIe (s : State) : (callFrameReady s).statIe = s.statIe := rfl
@[simp] theorem callFrameReady_lyc (s : State) : (callFrameReady s).lyc = s.lyc := rfl
@[simp] theorem callFrameReady_cnt (s : State) : (callFrameReady s).cnt = s.cnt := rfl
@[simp] theorem callFrameReady_mode (s : State) : (callFrameReady s).mode = s.mode := rfl
@[simp] theorem callFrameReady_fbSel (s : State) : (callFrameReady s).fbSel = s.fbSel := rfl
@[simp] theorem callFrameReady_fb0 (s : State) : (callFrameReady s).fb0 = s.fb0 := rfl
@[simp] theorem callFrameReady_fb1 (s : State) : (callFrameReady s).fb1 = s.fb1 := rfl
@[simp] theorem callFrameReady_hdmaActive (s : State) : (callFrameReady s).hdmaActive = s.hdmaActive := rfl
@[simp] theorem callFrameReady_input (s : State) : (callFrameReady s).input = s.input := rfl
@[simp] theorem callFrameReady_events (s : State) : (callFrameReady s).events = s.events := rfl
@[simp] theorem callFrameReady_result (s : State) : (callFrameReady s).result = s.result := rfl
@[simp] theorem callFrameReady_calls (s : State) : (callFrameReady s).calls = s.calls + 1 := rfl

@[simp] theorem displayOffReset_cfg (s : State) : (displayOffReset s).cfg = s.cfg := rfl
@[simp] theorem displayOffReset_lcdc (s : State) : (displayOffReset s).lcdc = s.lcdc := rfl
@[simp] theorem displayOffReset_statIe (s : State) : (displayOffReset s).statIe = s.statIe := rfl
@[simp] theorem displayOffReset_lyc (s : State) : (displayOffReset s).lyc = s.lyc := rfl
@[simp] theorem displayOffReset_cnt (s : State) : (displayOffReset s).cnt = 0 := rfl
@[simp] theorem displayOffReset_mode (s : State) : (displayOffReset s).mode = .hblank := rfl
@[simp] theorem displayOffReset_fbSel (s : State) : (displayOffReset s).fbSel = s.fbSel := rfl
@[simp] theorem displayOffReset_fb0 (s : State) : (displayOffReset s).fb0 = s.fb0 := rfl
@[simp] theorem displayOffReset_fb1 (s : State) : (displayOffReset s).fb1 = s.fb1 := rfl
@[simp] theorem displayOffReset_hdmaActive (s : State) : (displayOffReset s).hdmaActive = s.hdmaActive := rfl
@[simp] theorem displayOffReset_input (s : State) : (displayOffReset s).input = s.input := rfl
@[simp] theorem displayOffReset_events (s : State) : (displayOffReset s).events = s.events := rfl
@[simp] theorem displayOffReset_result (s : State) : (displayOffReset s).result = s.result := rfl
@[simp] theorem displayOffReset_calls (s : State) : (displayOffReset s).calls = s.calls := rfl

@[simp] theorem resetBlock_cfg (s : State) : (resetBlock s).cfg = s.cfg := rfl
@[simp] theorem resetBlock_lcdc (s : State) : (resetBlock s).lcdc = s.cfg.lcdcReset := rfl
@[simp] theorem resetBlock_statIe (s : State) : (resetBlock s).statIe = 0#4 := rfl
@[simp] theorem resetBlock_lyc (s : State) : (resetBlock s).lyc = 0x00#8 := rfl
@[simp] theorem resetBlock_cnt (s : State) : (resetBlock s).cnt = 0 := rfl
@[simp] theorem resetBlock_mode (s : State) : (resetBlock s).mode = .hblank := rfl
@[simp] theorem resetBlock_fbSel (s : State) : (resetBlock s).fbSel = 0 := rfl
@[simp] theorem resetBlock_fb0 (s : State) : (resetBlock s).fb0 = [] := rfl
@[simp] theorem resetBlock_fb1 (s : State) : (resetBlock s).fb1 = [] := rfl
@[simp] theorem resetBlock_hdmaActive (s : State) : (resetBlock s).hdmaActive = s.hdmaActive := rfl
@[simp] theorem resetBlock_input (s : State) : (resetBlock s).input = s.input := rfl
@[simp] theorem resetBlock_events (s : State) : (resetBlock s).events = s.events := rfl
@[simp] theorem resetBlock_result (s : State) : (resetBlock s).result = s.result := rfl
@[simp] theorem resetBlock_calls (s : State) : (resetBlock s).calls = s.calls := rfl

@[simp] theorem deliverNext_cfg (w : TxWord) (s : State) : (deliverNext w s).cfg = s.cfg := rfl
@[simp] theorem deliverNext_lcdc (w : TxWord) (s : State) : (deliverNext w s).lcdc = s.lcdc := rfl
@[simp] theorem deliverNext_statIe (w : TxWord) (s : State) : (deliverNext w s).statIe = s.statIe := rfl
@[simp] theorem deliverNext_lyc (w : TxWord) (s : State) : (deliverNext w s).lyc = s.lyc := rfl
@[simp] theorem deliverNext_cnt (w : TxWord) (s : State) : (deliverNext w s).cnt = s.cnt := rfl
@[simp] theorem deliverNext_mode (w : TxWord) (s : State) : (deliverNext w s).mode = s.mode := rfl
@[simp] theorem deliverNext_fbSel (w : TxWord) (s : State) : (deliverNext w s).fbSel = s.fbSel := rfl
@[simp] theorem deliverNext_fb0 (w : TxWord) (s : State) : (deliverNext w s).fb0 = s.fb0 := rfl
@[simp] theorem deliverNext_fb1 (w : TxWord) (s : State) : (deliverNext w s).fb1 = s.fb1 := rfl
@[simp] theorem deliverNext_hdmaActive (w : TxWord) (s : State) : (deliverNext w s).hdmaActive = s.hdmaActive := rfl
@[simp] theorem deliverNext_input (w : TxWord) (s : State) : (deliverNext w s).input = .word w :: s.input := rfl
@[simp] theorem deliverNext_events (w : TxWord) (s : State) : (deliverNext w s).events = s.events := rfl
@[simp] theorem deliverNext_result (w : TxWord) (s : State) : (deliverNext w s).result = s.result := rfl
@[simp] theorem deliverNext_calls (w : TxWord) (s : State) : (deliverNext w s).calls = s.calls := rfl

/-- A framebuffer reads back what `setFb` put there, and the other one is left. -/
@[simp] theorem fb_setFb (a b : FbIndex) (m : Fb) (s : State) :
    fb (setFb b m s) a = if a = b then m else fb s a := by
  fin_cases a <;> fin_cases b <;> rfl

/-- `fb` reads only the two framebuffer fields. -/
theorem fb_congr (s t : State) (h0 : t.fb0 = s.fb0) (h1 : t.fb1 = s.fb1) (b : FbIndex) : fb t b = fb s b := by
  unfold fb; rw [h0, h1]

@[simp] theorem enabled_setLcdc (v : Byte) (s : State) (src : StatSource) : enabled (setLcdc v s) src = enabled s src := rfl
@[simp] theorem hdmaSample_setLcdc (v : Byte) (s : State) : hdmaSample (setLcdc v s) = hdmaSample s := rfl
@[simp] theorem scanline_setLcdc (v : Byte) (s : State) : scanline (setLcdc v s) = scanline s := rfl
@[simp] theorem coincidence_setLcdc (v : Byte) (s : State) : coincidence (setLcdc v s) = coincidence s := rfl

@[simp] theorem displayOn_setStatIe (v : BitVec 4) (s : State) : displayOn (setStatIe v s) = displayOn s := rfl
@[simp] theorem hdmaSample_setStatIe (v : BitVec 4) (s : State) : hdmaSample (setStatIe v s) = hdmaSample s := rfl
@[simp] theorem scanline_setStatIe (v : BitVec 4) (s : State) : scanline (setStatIe v s) = scanline s := rfl
@[simp] theorem coincidence_setStatIe (v : BitVec 4) (s : State) : coincidence (setStatIe v s) = coincidence s := rfl
@[simp] theorem ticking_setStatIe (v : BitVec 4) (s : State) : ticking (setStatIe v s) = ticking s := rfl

@[simp] theorem displayOn_setLyc (v : Byte) (s : State) : displayOn (setLyc v s) = displayOn s := rfl
@[simp] theorem enabled_setLyc (v : Byte) (s : State) (src : StatSource) : enabled (setLyc v s) src = enabled s src := rfl
@[simp] theorem hdmaSample_setLyc (v : Byte) (s : State) : hdmaSample (setLyc v s) = hdmaSample s := rfl
@[simp] theorem scanline_setLyc (v : Byte) (s : State) : scanline (setLyc v s) = scanline s := rfl
@[simp] theorem ticking_setLyc (v : Byte) (s : State) : ticking (setLyc v s) = ticking s := rfl

@[simp] theorem displayOn_setCnt (n : Nat) (s : State) : displayOn (setCnt n s) = displayOn s := rfl
@[simp] theorem enabled_setCnt (n : Nat) (s : State) (src : StatSource) : enabled (setCnt n s) src = enabled s src := rfl
@[simp] theorem hdmaSample_setCnt (n : Nat) (s : State) : hdmaSample (setCnt n s) = hdmaSample s := rfl
@[simp] theorem ticking_setCnt (n : Nat) (s : State) : ticking (setCnt n s) = ticking s := rfl

@[simp] theorem displayOn_setMode (m : Mode) (s : State) : displayOn (setMode m s) = displayOn s := rfl
@[simp] theorem enabled_setMode (m : Mode) (s : State) (src : StatSource) : enabled (setMode m s) src = enabled s src := rfl
@[simp] theorem hdmaSample_setMode (m : Mode) (s : State) : hdmaSample (setMode m s) = hdmaSample s := rfl
@[simp] theorem scanline_setMode (m : Mode) (s : State) : scanline (setMode m s) = scanline s := rfl
@[simp] theorem coincidence_setMode (m : Mode) (s : State) : coincidence (setMode m s) = coincidence s := rfl
@[simp] theorem ticking_setMode (m : Mode) (s : State) : ticking (setMode m s) = ticking s := rfl

@[simp] theorem displayOn_setFbSel (b : FbIndex) (s : State) : displayOn (setFbSel b s) = displayOn s := rfl
@[simp] theorem enabled_setFbSel (b : FbIndex) (s : State) (src : StatSource) : enabled (setFbSel b s) src = enabled s src := rfl
@[simp] theorem hdmaSample_setFbSel (b : FbIndex) (s : State) : hdmaSample (setFbSel b s) = hdmaSample s := rfl
@[simp] theorem scanline_setFbSel (b : FbIndex) (s : State) : scanline (setFbSel b s) = scanline s := rfl
@[simp] theorem coincidence_setFbSel (b : FbIndex) (s : State) : coincidence (setFbSel b s) = coincidence s := rfl
@[simp] theorem ticking_setFbSel (b : FbIndex) (s : State) : ticking (setFbSel b s) = ticking s := rfl

@[simp] theorem displayOn_withEvents (es : List Event) (s : State) : displayOn (withEvents es s) = displayOn s := rfl
@[simp] theorem enabled_withEvents (es : List Event) (s : State) (src : StatSource) : enabled (withEvents es s) src = enabled s src := rfl
@[simp] theorem hdmaSample_withEvents (es : List Event) (s : State) : hdmaSample (withEvents es s) = hdmaSample s := rfl
@[simp] theorem scanline_withEvents (es : List Event) (s : State) : scanline (withEvents es s) = scanline s := rfl
@[simp] theorem coincidence_withEvents (es : List Event) (s : State) : coincidence (withEvents es s) = coincidence s := rfl
@[simp] theorem ticking_withEvents (es : List Event) (s : State) : ticking (withEvents es s) = ticking s := rfl

@[simp] theorem displayOn_quiet (s : State) : displayOn (quiet s) = displayOn s := rfl
@[simp] theorem enabled_quiet (s : State) (src : StatSource) : enabled (quiet s) src = enabled s src := rfl
@[simp] theorem hdmaSample_quiet (s : State) : hdmaSample (quiet s) = hdmaSample s := rfl
@[simp] theorem scanline_quiet (s : State) : scanline (quiet s) = scanline s := rfl
@[simp] theorem coincidence_quiet (s : State) : coincidence (quiet s) = coincidence s := rfl
@[simp] theorem ticking_quiet (s : State) : ticking (quiet s) = ticking s := rfl

@[simp] theorem displayOn_emit (e : Event) (s : State) : displayOn (emit e s) = displayOn s := rfl
@[simp] theorem enabled_emit (e : Event) (s : State) (src : StatSource) : enabled (emit e s) src = enabled s src := rfl
@[simp] theorem hdmaSample_emit (e : Event) (s : State) : hdmaSample (emit e s) = hdmaSample s := rfl
@[simp] theorem scanline_emit (e : Event) (s : State) : scanline (emit e s) = scanline s := rfl
@[simp] theorem coincidence_emit (e : Event) (s : State) : coincidence (emit e s) = coincidence s := rfl
@[simp] theorem ticking_emit (e : Event) (s : State) : ticking (emit e s) = ticking s := rfl

@[simp] theorem displayOn_answerByte (v : Byte) (s : State) : displayOn (answerByte v s) = displayOn s := rfl
@[simp] theorem enabled_answerByte (v : Byte) (s : State) (src : StatSource) : enabled (answerByte v s) src = enabled s src := rfl
@[simp] theorem hdmaSample_answerByte (v : Byte) (s : State) : hdmaSample (answerByte v s) = hdmaSample s := rfl
@[simp] theorem scanline_answerByte (v : Byte) (s : State) : scanline (answerByte v s) = scanline s := rfl
@[simp] theorem coincidence_answerByte (v : Byte) (s : State) : coincidence (answerByte v s) = coincidence s := rfl
@[simp] theorem ticking_answerByte (v : Byte) (s : State) : ticking (answerByte v s) = ticking s := rfl

@[simp] theorem displayOn_setFb (b : FbIndex) (m : Fb) (s : State) : displayOn (setFb b m s) = displayOn s := rfl
@[simp] theorem enabled_setFb (b : FbIndex) (m : Fb) (s : State) (src : StatSource) : enabled (setFb b m s) src = enabled s src := rfl
@[simp] theorem hdmaSample_setFb (b : FbIndex) (m : Fb) (s : State) : hdmaSample (setFb b m s) = hdmaSample s := rfl
@[simp] theorem scanline_setFb (b : FbIndex) (m : Fb) (s : State) : scanline (setFb b m s) = scanline s := rfl
@[simp] theorem coincidence_setFb (b : FbIndex) (m : Fb) (s : State) : coincidence (setFb b m s) = coincidence s := rfl
@[simp] theorem ticking_setFb (b : FbIndex) (m : Fb) (s : State) : ticking (setFb b m s) = ticking s := rfl

@[simp] theorem displayOn_clearFb (b : FbIndex) (s : State) : displayOn (clearFb b s) = displayOn s := rfl
@[simp] theorem enabled_clearFb (b : FbIndex) (s : State) (src : StatSource) : enabled (clearFb b s) src = enabled s src := rfl
@[simp] theorem hdmaSample_clearFb (b : FbIndex) (s : State) : hdmaSample (clearFb b s) = hdmaSample s := rfl
@[simp] theorem scanline_clearFb (b : FbIndex) (s : State) : scanline (clearFb b s) = scanline s := rfl
@[simp] theorem coincidence_clearFb (b : FbIndex) (s : State) : coincidence (clearFb b s) = coincidence s := rfl
@[simp] theorem ticking_clearFb (b : FbIndex) (s : State) : ticking (clearFb b s) = ticking s := rfl

@[simp] theorem displayOn_callRender (y : Nat) (b : FbIndex) (s : State) : displayOn (callRender y b s) = displayOn s := rfl
@[simp] theorem enabled_callRender (y : Nat) (b : FbIndex) (s : State) (src : StatSource) : enabled (callRender y b s) src = enabled s src := rfl
@[simp] theorem hdmaSample_callRender (y : Nat) (b : FbIndex) (s : State) : hdmaSample (callRender y b s) = hdmaSample s := rfl
@[simp] theorem scanline_callRender (y : Nat) (b : FbIndex) (s : State) : scanline (callRender y b s) = scanline s := rfl
@[simp] theorem coincidence_callRender (y : Nat) (b : FbIndex) (s : State) : coincidence (callRender y b s) = coincidence s := rfl
@[simp] theorem ticking_callRender (y : Nat) (b : FbIndex) (s : State) : ticking (callRender y b s) = ticking s := rfl

@[simp] theorem displayOn_callHdmaChunk (s : State) : displayOn (callHdmaChunk s) = displayOn s := rfl
@[simp] theorem enabled_callHdmaChunk (s : State) (src : StatSource) : enabled (callHdmaChunk s) src = enabled s src := rfl
@[simp] theorem scanline_callHdmaChunk (s : State) : scanline (callHdmaChunk s) = scanline s := rfl
@[simp] theorem coincidence_callHdmaChunk (s : State) : coincidence (callHdmaChunk s) = coincidence s := rfl
@[simp] theorem ticking_callHdmaChunk (s : State) : ticking (callHdmaChunk s) = ticking s := rfl

@[simp] theorem displayOn_callFrameReady (s : State) : displayOn (callFrameReady s) = displayOn s := rfl
@[simp] theorem enabled_callFrameReady (s : State) (src : StatSource) : enabled (callFrameReady s) src = enabled s src := rfl
@[simp] theorem hdmaSample_callFrameReady (s : State) : hdmaSample (callFrameReady s) = hdmaSample s := rfl
@[simp] theorem scanline_callFrameReady (s : State) : scanline (callFrameReady s) = scanline s := rfl
@[simp] theorem coincidence_callFrameReady (s : State) : coincidence (callFrameReady s) = coincidence s := rfl
@[simp] theorem ticking_callFrameReady (s : State) : ticking (callFrameReady s) = ticking s := rfl

@[simp] theorem displayOn_displayOffReset (s : State) : displayOn (displayOffReset s) = displayOn s := rfl
@[simp] theorem enabled_displayOffReset (s : State) (src : StatSource) : enabled (displayOffReset s) src = enabled s src := rfl
@[simp] theorem hdmaSample_displayOffReset (s : State) : hdmaSample (displayOffReset s) = hdmaSample s := rfl
@[simp] theorem ticking_displayOffReset (s : State) : ticking (displayOffReset s) = ticking s := rfl

@[simp] theorem hdmaSample_resetBlock (s : State) : hdmaSample (resetBlock s) = hdmaSample s := rfl

@[simp] theorem displayOn_deliverNext (w : TxWord) (s : State) : displayOn (deliverNext w s) = displayOn s := rfl
@[simp] theorem enabled_deliverNext (w : TxWord) (s : State) (src : StatSource) : enabled (deliverNext w s) src = enabled s src := rfl
@[simp] theorem hdmaSample_deliverNext (w : TxWord) (s : State) : hdmaSample (deliverNext w s) = hdmaSample s := rfl
@[simp] theorem scanline_deliverNext (w : TxWord) (s : State) : scanline (deliverNext w s) = scanline s := rfl
@[simp] theorem coincidence_deliverNext (w : TxWord) (s : State) : coincidence (deliverNext w s) = coincidence s := rfl
@[simp] theorem ticking_deliverNext (w : TxWord) (s : State) : ticking (deliverNext w s) = ticking s := rfl

@[simp] theorem fb_setLcdc (v : Byte) (s : State) (a : FbIndex) : fb (setLcdc v s) a = fb s a := rfl
@[simp] theorem fb_setStatIe (v : BitVec 4) (s : State) (a : FbIndex) : fb (setStatIe v s) a = fb s a := rfl
@[simp] theorem fb_setLyc (v : Byte) (s : State) (a : FbIndex) : fb (setLyc v s) a = fb s a := rfl
@[simp] theorem fb_setCnt (n : Nat) (s : State) (a : FbIndex) : fb (setCnt n s) a = fb s a := rfl
@[simp] theorem fb_setMode (m : Mode) (s : State) (a : FbIndex) : fb (setMode m s) a = fb s a := rfl
@[simp] theorem fb_setFbSel (b : FbIndex) (s : State) (a : FbIndex) : fb (setFbSel b s) a = fb s a := rfl
@[simp] theorem fb_withEvents (es : List Event) (s : State) (a : FbIndex) : fb (withEvents es s) a = fb s a := rfl
@[simp] theorem fb_quiet (s : State) (b : FbIndex) : fb (quiet s) b = fb s b := rfl
@[simp] theorem fb_emit (e : Event) (s : State) (b : FbIndex) : fb (emit e s) b = fb s b := rfl
@[simp] theorem fb_callHdmaChunk (s : State) (b : FbIndex) : fb (callHdmaChunk s) b = fb s b := rfl
@[simp] theorem fb_callFrameReady (s : State) (b : FbIndex) : fb (callFrameReady s) b = fb s b := rfl

@[simp] theorem fb_clearFb (a b : FbIndex) (s : State) : fb (clearFb b s) a = if a = b then [] else fb s a :=
  fb_setFb a b [] s

@[simp] theorem fb_callRender (a b : FbIndex) (y : Nat) (s : State) :
    fb (callRender y b s) a =
      if a = b then renderRow s.cfg s.calls s.lcdc y b s.cfg.width (fb s b) else fb s a :=
  fb_setFb a b _ s

@[simp] theorem otherFb_otherFb (b : FbIndex) : otherFb (otherFb b) = b := by fin_cases b <;> rfl

@[simp] theorem otherFb_ne (b : FbIndex) : otherFb b ≠ b := by fin_cases b <;> decide

@[simp] theorem quiet_quiet (s : State) : quiet (quiet s) = quiet s := rfl

end Sys2Proof.Machine
end

