-- ==== Sys2Proof/Laws/Framebuffer.lean ====
section
/-! SUPPORT. The framebuffer operations: read after write, and the canonical form that every operation keeps (10_state.md R29). -/

namespace Sys2Proof.Machine

variable {clear : Pixel} {size : Nat}

/-- A canonical framebuffer lists no index below its lower bound, so such a pixel is clear. -/
theorem fbGet_below {m : Fb} {low i : Nat} (h : fbCanonical clear size low m = true) (hi : i < low) :
    fbGet clear m i = clear := by
  induction m generalizing low with
  | nil => rfl
  | cons p rest ih =>
    obtain ⟨j, v⟩ := p
    simp only [fbCanonical, Bool.and_eq_true, decide_eq_true_eq] at h
    have hj : j ≠ i := by omega
    simp only [fbGet, hj, if_false]
    exact ih h.2 (by omega)

/-- The lower bound of a canonical framebuffer can be lowered. -/
theorem fbCanonical_mono {m : Fb} {low low' : Nat} (h : fbCanonical clear size low m = true) (hl : low' ≤ low) :
    fbCanonical clear size low' m = true := by
  cases m with
  | nil => rfl
  | cons p rest =>
    obtain ⟨j, v⟩ := p
    simp only [fbCanonical, Bool.and_eq_true, decide_eq_true_eq] at h ⊢
    exact ⟨⟨⟨by omega, h.1.1.2⟩, h.1.2⟩, h.2⟩

/-- `fbCons` keeps the canonical form. -/
theorem fbCanonical_fbCons {m : Fb} {low i : Nat} (v : Pixel) (h : fbCanonical clear size (i + 1) m = true)
    (hl : low ≤ i) (hi : i < size) : fbCanonical clear size low (fbCons clear i v m) = true := by
  unfold fbCons
  split
  · exact fbCanonical_mono h (by omega)
  · simp_all [fbCanonical]

/-- A write inside the framebuffer keeps the canonical form. -/
theorem fbCanonical_fbPut {m : Fb} {low i : Nat} (v : Pixel) (h : fbCanonical clear size low m = true)
    (hl : low ≤ i) (hi : i < size) : fbCanonical clear size low (fbPut clear m i v) = true := by
  induction m generalizing low with
  | nil => exact fbCanonical_fbCons v rfl hl hi
  | cons p rest ih =>
    obtain ⟨j, u⟩ := p
    have h' := h
    simp only [fbCanonical, Bool.and_eq_true, decide_eq_true_eq] at h
    simp only [fbPut]
    split
    · simp only [fbCanonical, Bool.and_eq_true, decide_eq_true_eq]
      exact ⟨h.1, ih h.2 (by omega)⟩
    · split
      · rename_i hji
        subst hji
        exact fbCanonical_fbCons v h.2 hl hi
      · refine fbCanonical_fbCons v ?_ hl hi
        simp only [fbCanonical, Bool.and_eq_true, decide_eq_true_eq]
        exact ⟨⟨⟨by omega, h.1.1.2⟩, h.1.2⟩, h.2⟩

/-- `fbCons` reads as the pixel put in front. -/
theorem fbGet_fbCons {m : Fb} {low i k : Nat} (v : Pixel) (h : fbCanonical clear size low m = true) (hi : i < low) :
    fbGet clear (fbCons clear i v m) k = if i = k then v else fbGet clear m k := by
  unfold fbCons
  split
  · rename_i hv
    split
    · rename_i hik; subst hik; rw [hv]; exact fbGet_below h hi
    · rfl
  · rfl

/-- Reading after a write: the written pixel at its index, every other pixel as before. -/
theorem fbGet_fbPut {m : Fb} {low i : Nat} (v : Pixel) (k : Nat) (h : fbCanonical clear size low m = true) :
    fbGet clear (fbPut clear m i v) k = if i = k then v else fbGet clear m k := by
  induction m generalizing low with
  | nil => exact fbGet_fbCons (size := 0) (low := i + 1) v rfl (by omega)
  | cons p rest ih =>
    obtain ⟨j, u⟩ := p
    simp only [fbCanonical, Bool.and_eq_true, decide_eq_true_eq] at h
    simp only [fbPut]
    split
    · simp only [fbGet, ih h.2]
      split
      · split
        · omega
        · rfl
      · rfl
    · split
      · rename_i hji
        subst hji
        rw [fbGet_fbCons v h.2 (by omega)]
        simp only [fbGet]
        split <;> rfl
      · have hc : fbCanonical clear size j ((j, u) :: rest) = true := by
          simp only [fbCanonical, Bool.and_eq_true, decide_eq_true_eq]
          exact ⟨⟨⟨by omega, h.1.1.2⟩, h.1.2⟩, h.2⟩
        rw [fbGet_fbCons v hc (by omega)]

/-- Two canonical framebuffers that read the same everywhere are the same data. -/
theorem fbCanonical_ext {m m' : Fb} {low : Nat} (h : fbCanonical clear size low m = true)
    (h' : fbCanonical clear size low m' = true) (e : ∀ k, fbGet clear m k = fbGet clear m' k) : m = m' := by
  induction m generalizing m' low with
  | nil =>
    cases m' with
    | nil => rfl
    | cons q rest' =>
      obtain ⟨j, v⟩ := q
      simp only [fbCanonical, Bool.and_eq_true, decide_eq_true_eq] at h'
      have := e j
      simp only [fbGet, if_true] at this
      exact absurd this.symm h'.1.2
  | cons p rest ih =>
    obtain ⟨j, v⟩ := p
    cases m' with
    | nil =>
      simp only [fbCanonical, Bool.and_eq_true, decide_eq_true_eq] at h
      have := e j
      simp only [fbGet, if_true] at this
      exact absurd this h.1.2
    | cons q rest' =>
      obtain ⟨j', v'⟩ := q
      have hc := h
      have hc' := h'
      simp only [fbCanonical, Bool.and_eq_true, decide_eq_true_eq] at h h'
      have below : ∀ {a b : Nat} {x y : Pixel} {r r' : Fb}, a < b → x ≠ clear →
          fbCanonical clear size (b + 1) r' = true →
          fbGet clear ((a, x) :: r) a ≠ fbGet clear ((b, y) :: r') a := by
        intro a b x y r r' hab hx hr
        have hne : b ≠ a := by omega
        simp only [fbGet, if_true, hne, if_false]
        rw [fbGet_below hr (by omega)]
        exact hx
      rcases lt_trichotomy j j' with hlt | heq | hgt
      · exact absurd (e j) (below hlt h.1.2 h'.2)
      · subst heq
        have hv : v = v' := by
          have := e j
          simpa only [fbGet, if_true] using this
        subst hv
        rw [ih h.2 h'.2 ?_]
        intro k
        have := e k
        simp only [fbGet] at this
        by_cases hk : j = k
        · subst hk
          rw [fbGet_below h.2 (by omega), fbGet_below h'.2 (by omega)]
        · simpa only [hk, if_false] using this
      · exact absurd (e j').symm (below hgt h'.1.2 h.2)

/-- Row y lies inside the framebuffer when y is a visible line. -/
theorem row_index_lt {c : Config} {y k : Nat} (hy : y < c.visible) (hk : k < c.width) :
    y * c.width + k < fbSize c := by
  have : (y + 1) * c.width ≤ c.visible * c.width := Nat.mul_le_mul_right _ hy
  unfold fbSize
  rw [Nat.add_mul, Nat.one_mul] at this
  rw [Nat.mul_comm c.width]
  omega

/-- A rendered row keeps the canonical form. -/
theorem fbCanonical_renderRow {c : Config} {m : Fb} {call y n : Nat} {lcdc : Byte} {b : FbIndex}
    (h : fbCanonical c.clearPixel (fbSize c) 0 m = true) (hy : y < c.visible) (hn : n ≤ c.width) :
    fbCanonical c.clearPixel (fbSize c) 0 (renderRow c call lcdc y b n m) = true := by
  induction n with
  | zero => exact h
  | succ k ih => exact fbCanonical_fbPut _ (ih (by omega)) (by omega) (row_index_lt hy (by omega))

/-- A rendered row leaves every pixel outside `y * P_WIDTH .. y * P_WIDTH + P_WIDTH - 1`. -/
theorem fbGet_renderRow_other {c : Config} {m : Fb} {call y n k : Nat} {lcdc : Byte} {b : FbIndex}
    (h : fbCanonical c.clearPixel (fbSize c) 0 m = true) (hy : y < c.visible) (hn : n ≤ c.width)
    (hk : k < y * c.width ∨ y * c.width + c.width ≤ k) :
    fbGet c.clearPixel (renderRow c call lcdc y b n m) k = fbGet c.clearPixel m k := by
  induction n with
  | zero => rfl
  | succ j ih =>
    rw [renderRow, fbGet_fbPut _ _ (fbCanonical_renderRow h hy (by omega)), if_neg (by omega), ih (by omega)]

/-- A rendered row holds the renderer's value at each of its columns (40_timing_fsm.md R104). -/
theorem fbGet_renderRow_row {c : Config} {m : Fb} {call y n k : Nat} {lcdc : Byte} {b : FbIndex}
    (h : fbCanonical c.clearPixel (fbSize c) 0 m = true) (hy : y < c.visible) (hn : n ≤ c.width) (hk : k < n) :
    fbGet c.clearPixel (renderRow c call lcdc y b n m) (y * c.width + k) = Config.renderPixel call lcdc y b k := by
  induction n with
  | zero => omega
  | succ j ih =>
    rw [renderRow, fbGet_fbPut _ _ (fbCanonical_renderRow h hy (by omega))]
    by_cases hjk : j = k
    · rw [if_pos (by rw [hjk]), hjk]
    · rw [if_neg (by omega), ih (by omega) (by omega)]

/-- The clearing loop leaves every index at or past its bound, and clears those below. -/
theorem fb_clearLoop (b : FbIndex) (n : Nat) (s : State)
    (h : fbCanonical s.cfg.clearPixel (fbSize s.cfg) 0 (fb s b) = true) (hn : n ≤ fbSize s.cfg) :
    (clearLoop b n s).cfg = s.cfg ∧
    fbCanonical s.cfg.clearPixel (fbSize s.cfg) 0 (fb (clearLoop b n s) b) = true ∧
    ∀ k, fbGet s.cfg.clearPixel (fb (clearLoop b n s) b) k =
      if k < n then s.cfg.clearPixel else fbGet s.cfg.clearPixel (fb s b) k := by
  induction n with
  | zero => exact ⟨rfl, h, fun k => by simp [clearLoop]⟩
  | succ j ih =>
    obtain ⟨hc, hcan, hget⟩ := ih (by omega)
    refine ⟨by simp [clearLoop, fbWrite, hc], ?_, ?_⟩
    · simp only [clearLoop, fbWrite, fb_setFb, if_true, hc]
      exact fbCanonical_fbPut _ hcan (by omega) (by omega)
    · intro k
      simp only [clearLoop, fbWrite, fb_setFb, if_true, hc]
      rw [fbGet_fbPut _ _ hcan, hget]
      by_cases hjk : j = k
      · subst hjk; simp
      · simp only [hjk, if_false]
        by_cases hk : k < j
        · simp [hk, show k < j + 1 by omega]
        · simp [hk, show ¬ k < j + 1 by omega]

/-- A canonical framebuffer lists no index at or past its size. -/
theorem fbGet_above {m : Fb} {low k : Nat} (h : fbCanonical clear size low m = true) (hk : size ≤ k) :
    fbGet clear m k = clear := by
  induction m generalizing low with
  | nil => rfl
  | cons p rest ih =>
    obtain ⟨j, v⟩ := p
    simp only [fbCanonical, Bool.and_eq_true, decide_eq_true_eq] at h
    have hj : j ≠ k := by omega
    simp only [fbGet, hj, if_false]
    exact ih h.2

/-- The loop of `FbWrite` over every pixel (40_timing_fsm.md R117; 70_reset_and_hazards.md R200) is the clear. -/
theorem clearLoop_eq_clearFb (b : FbIndex) (s : State)
    (h : fbCanonical s.cfg.clearPixel (fbSize s.cfg) 0 (fb s b) = true) :
    fb (clearLoop b (fbSize s.cfg) s) b = fb (clearFb b s) b := by
  obtain ⟨_, hcan, hget⟩ := fb_clearLoop b (fbSize s.cfg) s h le_rfl
  have hnil : fb (clearFb b s) b = [] := by simp
  rw [hnil]
  refine fbCanonical_ext hcan rfl fun k => ?_
  rw [hget]
  split
  · rfl
  · exact fbGet_above h (by omega)

end Sys2Proof.Machine
end

