-- ==== Sys2Proof/Laws/Timing.lean ====
section
/-! SUPPORT. The timing functions under a configuration that meets 00_scope.md R9 (10_state.md R27; 40_timing_fsm.md R101, R110). -/

namespace Sys2Proof.Machine

/-- The constraints of 00_scope.md R9, one by one. -/
theorem validConfig_iff (c : Config) :
    validConfig c = true ↔
      0 < c.oamEnd ∧ c.oamEnd < c.xferEnd ∧ c.xferEnd < c.linePeriod ∧
      0 < c.visible ∧ c.visible < c.lines ∧ c.lines ≤ 256 := by
  simp [validConfig, and_assoc]

variable {c : Config} (hc : validConfig c = true)

include hc

theorem linePeriod_gt_two : 2 < c.linePeriod := by
  have := (validConfig_iff c).mp hc; omega

theorem linePeriod_pos : 0 < c.linePeriod := by
  have := linePeriod_gt_two hc; omega

theorem lines_pos : 0 < c.lines := by
  have := (validConfig_iff c).mp hc; omega

theorem framePeriod_pos : 0 < framePeriod c := Nat.mul_pos (linePeriod_pos hc) (lines_pos hc)

theorem linePeriod_le_framePeriod : c.linePeriod ≤ framePeriod c := Nat.le_mul_of_pos_right _ (lines_pos hc)

/-- The scanline is in `[0, P_LINES)` (10_state.md R23). -/
theorem lyOf_lt_lines (n : Nat) : lyOf c n < c.lines := by
  unfold lyOf
  rw [Nat.div_lt_iff_lt_mul (linePeriod_pos hc), Nat.mul_comm]
  exact Nat.mod_lt _ (framePeriod_pos hc)

theorem dotOf_lt (n : Nat) : dotOf c n < c.linePeriod := Nat.mod_lt _ (linePeriod_pos hc)

theorem nextCount_lt (n : Nat) : nextCount c n < framePeriod c := Nat.mod_lt _ (framePeriod_pos hc)

omit hc in
/-- A counter value of a frame, by its line and its offset. -/
theorem line_dot_lt {line dot : Nat} (hl : line < c.lines) (hd : dot < c.linePeriod) :
    line * c.linePeriod + dot < framePeriod c := by
  have h : (line + 1) * c.linePeriod ≤ c.lines * c.linePeriod := Nat.mul_le_mul_right _ hl
  rw [Nat.add_mul, Nat.one_mul] at h
  unfold framePeriod
  rw [Nat.mul_comm c.linePeriod]
  omega

/-- The scanline and the offset of `line * P_LINE_PERIOD + dot`. -/
theorem lyOf_line_dot {line dot : Nat} (hl : line < c.lines) (hd : dot < c.linePeriod) :
    lyOf c (line * c.linePeriod + dot) = line := by
  unfold lyOf
  rw [Nat.mod_eq_of_lt (line_dot_lt hl hd), Nat.mul_comm, Nat.mul_add_div (linePeriod_pos hc),
    Nat.div_eq_of_lt hd, Nat.add_zero]

omit hc in
theorem dotOf_line_dot {line dot : Nat} (hd : dot < c.linePeriod) :
    dotOf c (line * c.linePeriod + dot) = dot := by
  unfold dotOf
  rw [Nat.mul_comm, Nat.mul_add_mod, Nat.mod_eq_of_lt hd]

omit hc in
/-- A counter value in range is its line and its offset. -/
theorem line_dot_eq {n : Nat} (hn : n < framePeriod c) : lyOf c n * c.linePeriod + dotOf c n = n := by
  unfold lyOf dotOf
  rw [Nat.mod_eq_of_lt hn]
  exact Nat.div_add_mod' n c.linePeriod

omit hc in
/-- Within a line the counter and its offset advance by one. -/
theorem nextCount_line_dot {line dot : Nat} (hl : line < c.lines) (hd : dot + 1 < c.linePeriod) :
    nextCount c (line * c.linePeriod + dot) = line * c.linePeriod + (dot + 1) := by
  unfold nextCount
  exact Nat.mod_eq_of_lt (line_dot_lt hl hd)

omit hc in
/-- The counter wraps at the end of the frame (10_state.md R32). -/
theorem nextCount_wrap {n : Nat} (hn : n + 1 = framePeriod c) : nextCount c n = 0 := by
  unfold nextCount; rw [hn, Nat.mod_self]

theorem nextCount_zero : nextCount c 0 = 1 := by
  unfold nextCount
  have := linePeriod_gt_two hc
  have := linePeriod_le_framePeriod hc
  exact Nat.mod_eq_of_lt (by omega)

/-- The derived mode of counter 0 is OAM_SEARCH (10_state.md R26). -/
theorem modeOf_zero : modeOf c 0 = .oamSearch := by
  have h := (validConfig_iff c).mp hc
  have hly : lyOf c 0 = 0 := by simp [lyOf]
  have hdot : dotOf c 0 = 0 := by simp [dotOf]
  rw [modeOf, hly, hdot, if_neg (by omega), if_pos h.1]

/-- The scanline and the offset of counter 1. -/
theorem lyOf_one : lyOf c 1 = 0 ∧ dotOf c 1 = 1 := by
  have h2 := linePeriod_gt_two hc
  have h := lyOf_line_dot hc (lines_pos hc) (show 1 < c.linePeriod by omega)
  have h' := dotOf_line_dot (c := c) (line := 0) (show 1 < c.linePeriod by omega)
  rw [Nat.zero_mul, Nat.zero_add] at h h'
  exact ⟨h, h'⟩

/-- The first tick after a reset enters OAM_SEARCH when that mode lasts past offset 0, and PIXEL_TRANSFER otherwise
(40_timing_fsm.md R122; log entry 17). -/
theorem modeOf_one : modeOf c 1 = if 1 < c.oamEnd then .oamSearch else .pixelTransfer := by
  have h := (validConfig_iff c).mp hc
  obtain ⟨hly, hdot⟩ := lyOf_one hc
  rw [modeOf, hly, hdot, if_neg (by omega)]
  split
  · rfl
  · rw [if_pos (by omega)]

omit hc in
/-- The scanline depends on the counter modulo the frame period (10_state.md R27). -/
@[simp] theorem lyOf_mod (n : Nat) : lyOf c (n % framePeriod c) = lyOf c n := by
  unfold lyOf; rw [Nat.mod_mod]

omit hc in
/-- A frame is a whole number of lines, so the offset survives the wrap (10_state.md R27). -/
@[simp] theorem dotOf_mod (n : Nat) : dotOf c (n % framePeriod c) = dotOf c n :=
  Nat.mod_mod_of_dvd n ⟨c.lines, rfl⟩

omit hc in
@[simp] theorem modeOf_mod (n : Nat) : modeOf c (n % framePeriod c) = modeOf c n := by
  unfold modeOf; rw [lyOf_mod, dotOf_mod]

/-- The derived mode turns to HBLANK at offset `P_XFER_END` of a visible line and nowhere else (40_timing_fsm.md R102). -/
theorem modeOf_enters_hblank_iff {n : Nat} (hn : n < framePeriod c) :
    modeOf c (n + 1) = .hblank ∧ modeOf c n ≠ .hblank ↔ lyOf c (n + 1) < c.visible ∧ dotOf c (n + 1) = c.xferEnd := by
  have h := (validConfig_iff c).mp hc
  have hl := lyOf_lt_lines hc n
  have hd := dotOf_lt hc n
  have e := line_dot_eq hn
  have hmode : ∀ k, modeOf c k = .hblank ↔ lyOf c k < c.visible ∧ c.xferEnd ≤ dotOf c k := by
    intro k
    unfold modeOf
    split
    · simp; omega
    · split
      · simp; omega
      · split
        · simp; omega
        · simp; omega
  rw [ne_eq, hmode, hmode]
  by_cases hlast : dotOf c n + 1 < c.linePeriod
  · have hly : lyOf c (n + 1) = lyOf c n := by
      conv_lhs => rw [← e, Nat.add_assoc]
      exact lyOf_line_dot hc hl hlast
    have hdot : dotOf c (n + 1) = dotOf c n + 1 := by
      conv_lhs => rw [← e, Nat.add_assoc]
      exact dotOf_line_dot hlast
    omega
  · have hdot : dotOf c (n + 1) = 0 := by
      have : n + 1 = (lyOf c n + 1) * c.linePeriod + 0 := by rw [Nat.add_mul, Nat.one_mul]; omega
      rw [this]
      exact dotOf_line_dot (by omega)
    omega

omit hc in
/-- Only a visible line is in HBLANK (40_timing_fsm.md R113). -/
theorem visible_of_modeOf_ne_vblank {n : Nat} (h : modeOf c n ≠ .vblank) : lyOf c n < c.visible := by
  unfold modeOf at h
  split at h
  · exact absurd rfl h
  · omega

end Sys2Proof.Machine
end

