-- ==== Sys2Proof/Laws/Modes.lean ====
section
/-! SUPPORT. What a mode entry and a tick can do, said once: the events they append and every field of the state (40_timing_fsm.md R110 to R117). -/

namespace Sys2Proof.Machine

/-! ### The events of an entry and of a tick -/

/-- The event of a status source, if it is enabled. -/
def statEvents (src : StatSource) (s : State) : List Event := if enabled s src then [.irqStat src] else []

/-- The events of the entry into a mode, read from a state whose counter is the new one (R113, R115, R117). -/
def entryEvents (m : Mode) (s : State) : List Event :=
  match m with
  | .hblank =>
    (if displayOn s then statEvents .hbl s ++ [.renderLine (scanline s) s.fbSel] else []) ++
    (if hdmaSample s then [.hdmaChunk] else [])
  | .vblank => [.irqVBlank] ++ statEvents .vbl s ++ [.frameReady s.fbSel, .swap (otherFb s.fbSel)]
  | .oamSearch => statEvents .oam s ++ (if coincidence s then statEvents .lyc s else [])
  | .pixelTransfer => []

/-- The state whose counter a tick has advanced. -/
def advanced (s : State) : State := setCnt (nextCount s.cfg s.cnt) s

/-- The mode the counter derives after a tick. -/
def nextMode (s : State) : Mode := modeOf s.cfg (nextCount s.cfg s.cnt)

/-- The events of one tick. -/
def tickEvents (s : State) : List Event :=
  if ticking s ∧ nextMode s ≠ s.mode then entryEvents (nextMode s) (advanced s) else []

theorem raiseStat_eq (src : StatSource) (s : State) :
    raiseStat src s = withEvents (s.events ++ statEvents src s) s := by
  unfold raiseStat statEvents emit withEvents
  split <;> simp

theorem emit_eq (e : Event) (s : State) : emit e s = withEvents (s.events ++ [e]) s := rfl

@[simp] theorem withEvents_withEvents (es fs : List Event) (s : State) :
    withEvents es (withEvents fs s) = withEvents es s := rfl

@[simp] theorem withEvents_self (s : State) : withEvents s.events s = s := rfl

@[simp] theorem statEvents_withEvents (src : StatSource) (es : List Event) (s : State) :
    statEvents src (withEvents es s) = statEvents src s := rfl

@[simp] theorem statEvents_setMode (src : StatSource) (m : Mode) (s : State) :
    statEvents src (setMode m s) = statEvents src s := rfl

@[simp] theorem entryEvents_setMode (m k : Mode) (s : State) : entryEvents m (setMode k s) = entryEvents m s := by
  cases m <;> rfl

@[simp] theorem entryEvents_withEvents (m : Mode) (es : List Event) (s : State) :
    entryEvents m (withEvents es s) = entryEvents m s := by
  cases m <;> rfl

/-! ### An entry as one update of the event list over one update of the rest -/

/-- What an entry does beside its events: the render of one row, the chunk's effect on the input line, the swap. -/
def entryEffect (m : Mode) (s : State) : State :=
  match m with
  | .hblank =>
    let t := if displayOn s then callRender (scanline s) s.fbSel s else s
    if hdmaSample s then callHdmaChunk t else t
  | .vblank => clearFb (otherFb s.fbSel) (setFbSel (otherFb s.fbSel) (callFrameReady s))
  | .oamSearch => s
  | .pixelTransfer => s

theorem callRender_withEvents (y : Nat) (b : FbIndex) (es : List Event) (s : State) :
    callRender y b (withEvents es s) = withEvents es (callRender y b s) := rfl

theorem callHdmaChunk_withEvents (es : List Event) (s : State) :
    callHdmaChunk (withEvents es s) = withEvents es (callHdmaChunk s) := rfl

theorem callFrameReady_withEvents (es : List Event) (s : State) :
    callFrameReady (withEvents es s) = withEvents es (callFrameReady s) := rfl

theorem clearFb_withEvents (b : FbIndex) (es : List Event) (s : State) :
    clearFb b (withEvents es s) = withEvents es (clearFb b s) := rfl

theorem setFbSel_withEvents (b : FbIndex) (es : List Event) (s : State) :
    setFbSel b (withEvents es s) = withEvents es (setFbSel b s) := rfl

theorem setMode_withEvents (m : Mode) (es : List Event) (s : State) :
    setMode m (withEvents es s) = withEvents es (setMode m s) := rfl

theorem entryEffect_withEvents (m : Mode) (es : List Event) (s : State) :
    entryEffect m (withEvents es s) = withEvents es (entryEffect m s) := by
  cases m with
  | hblank =>
    cases hd : displayOn s <;> cases hs : hdmaSample s <;>
      simp [entryEffect, hd, hs, callRender_withEvents, callHdmaChunk_withEvents]
  | vblank =>
    simp [entryEffect, callFrameReady_withEvents, setFbSel_withEvents, clearFb_withEvents]
  | oamSearch => rfl
  | pixelTransfer => rfl

/-- HBLANK entry (R113, R116). -/
theorem enterHblank_eq (s : State) :
    enterHblank s = withEvents (s.events ++ entryEvents .hblank s) (entryEffect .hblank s) := by
  unfold enterHblank renderStep hdmaStep entryEvents entryEffect
  cases hon : displayOn s <;> cases hs : hdmaSample s <;>
    simp [hon, hs, raiseStat_eq, emit_eq, callRender_withEvents, callHdmaChunk_withEvents]

/-- OAM_SEARCH entry (R115) changes only the event list. -/
theorem enterOamSearch_eq (s : State) :
    enterOamSearch s = withEvents (s.events ++ entryEvents .oamSearch s) s := by
  unfold enterOamSearch entryEvents
  cases h : coincidence s <;> simp [h, raiseStat_eq]

/-- VBLANK entry (R117). -/
theorem enterVblank_eq (s : State) :
    enterVblank s = withEvents (s.events ++ entryEvents .vblank s) (entryEffect .vblank s) := by
  unfold enterVblank swapBuffers entryEvents entryEffect
  simp [raiseStat_eq, emit_eq, callFrameReady_withEvents, setFbSel_withEvents, clearFb_withEvents]

/-- An entry, for every mode (R111): the stored mode is written, the events of R113 to R117 are appended. -/
theorem enterMode_eq (m : Mode) (s : State) :
    enterMode m s = withEvents (s.events ++ entryEvents m s) (entryEffect m (setMode m s)) := by
  cases m with
  | hblank => simpa [enterMode] using enterHblank_eq (setMode .hblank s)
  | vblank => simpa [enterMode] using enterVblank_eq (setMode .vblank s)
  | oamSearch => simpa [enterMode, entryEffect] using enterOamSearch_eq (setMode .oamSearch s)
  | pixelTransfer =>
    simp only [enterMode, enterPixelTransfer, entryEvents, entryEffect, List.append_nil]
    exact (withEvents_self (setMode .pixelTransfer s)).symm

/-! ### The fields an entry leaves alone -/

/-- What an entry leaves: the registers, the input stream and the result. -/
structure SameRegisters (s t : State) : Prop where
  cfg : t.cfg = s.cfg
  lcdc : t.lcdc = s.lcdc
  statIe : t.statIe = s.statIe
  lyc : t.lyc = s.lyc
  input : t.input = s.input
  result : t.result = s.result

theorem SameRegisters.refl (s : State) : SameRegisters s s := ⟨rfl, rfl, rfl, rfl, rfl, rfl⟩

theorem SameRegisters.trans {s t u : State} (h : SameRegisters s t) (k : SameRegisters t u) : SameRegisters s u :=
  ⟨k.cfg.trans h.cfg, k.lcdc.trans h.lcdc, k.statIe.trans h.statIe, k.lyc.trans h.lyc, k.input.trans h.input,
    k.result.trans h.result⟩

/-- Beside its events an entry changes the framebuffers, `fb_sel` at VBLANK entry only, and the collaborators' part. -/
theorem entryEffect_spec (m : Mode) (s : State) :
    SameRegisters s (entryEffect m s) ∧ (entryEffect m s).cnt = s.cnt ∧ (entryEffect m s).mode = s.mode ∧
    (entryEffect m s).fbSel = (if m = .vblank then otherFb s.fbSel else s.fbSel) ∧
    (entryEffect m s).events = s.events := by
  cases m with
  | hblank =>
    unfold entryEffect
    cases displayOn s <;> cases hdmaSample s <;> exact ⟨by constructor <;> simp, by simp, by simp, by simp, by simp⟩
  | vblank => exact ⟨by constructor <;> simp [entryEffect], by simp [entryEffect], by simp [entryEffect],
      by simp [entryEffect], by simp [entryEffect]⟩
  | oamSearch => exact ⟨.refl s, rfl, rfl, rfl, rfl⟩
  | pixelTransfer => exact ⟨.refl s, rfl, rfl, rfl, rfl⟩

/-- The framebuffers after an entry: HBLANK with the display on renders one row of the in-progress buffer, VBLANK clears
the new in-progress buffer, no other entry touches a pixel (R113, R117). -/
theorem fb_entryEffect (m : Mode) (s : State) (b : FbIndex) :
    fb (entryEffect m s) b =
      if m = .hblank ∧ displayOn s = true ∧ b = s.fbSel then
        renderRow s.cfg s.calls s.lcdc (scanline s) b s.cfg.width (fb s b)
      else if m = .vblank ∧ b = otherFb s.fbSel then []
      else fb s b := by
  cases m with
  | hblank =>
    unfold entryEffect
    by_cases hb : b = s.fbSel <;> cases displayOn s <;> cases hdmaSample s <;> simp [hb]
  | vblank => simp [entryEffect]
  | oamSearch => simp [entryEffect]
  | pixelTransfer => simp [entryEffect]

/-! ### The tick -/

/-- A tick that changes nothing: the display is off under Freeze (R120). -/
theorem tick_of_not_ticking {s : State} (h : ticking s = false) : tick s = s := by
  unfold tick; simp [h]

/-- A tick within a mode moves the counter only (R110). -/
theorem tick_of_same_mode {s : State} (h : ticking s = true) (hm : nextMode s = s.mode) : tick s = advanced s := by
  unfold tick
  rw [if_pos h]
  exact if_pos hm

/-- A tick that enters a mode (R111). -/
theorem tick_of_entry {s : State} (h : ticking s = true) (hm : nextMode s ≠ s.mode) :
    tick s = enterMode (nextMode s) (advanced s) := by
  unfold tick
  rw [if_pos h]
  exact if_neg hm

/-- Every case of a tick. -/
theorem tick_cases (s : State) :
    (ticking s = false ∧ tick s = s) ∨
    (ticking s = true ∧ nextMode s = s.mode ∧ tick s = advanced s) ∨
    (ticking s = true ∧ nextMode s ≠ s.mode ∧ tick s = enterMode (nextMode s) (advanced s)) := by
  cases h : ticking s
  · exact .inl ⟨rfl, tick_of_not_ticking h⟩
  · by_cases hm : nextMode s = s.mode
    · exact .inr (.inl ⟨rfl, hm, tick_of_same_mode h hm⟩)
    · exact .inr (.inr ⟨rfl, hm, tick_of_entry h hm⟩)

/-- A tick, for every state: registers stay, the counter and the mode follow R110, the events are `tickEvents`. -/
theorem tick_spec (s : State) :
    SameRegisters s (tick s) ∧
    (tick s).cnt = (if ticking s then nextCount s.cfg s.cnt else s.cnt) ∧
    (tick s).mode = (if ticking s then nextMode s else s.mode) ∧
    (tick s).fbSel = (if ticking s ∧ nextMode s ≠ s.mode ∧ nextMode s = .vblank then otherFb s.fbSel else s.fbSel) ∧
    (tick s).events = s.events ++ tickEvents s := by
  rcases tick_cases s with ⟨h, e⟩ | ⟨h, hm, e⟩ | ⟨h, hm, e⟩
  · rw [e]; exact ⟨.refl s, by simp [h], by simp [h], by simp [h], by simp [tickEvents, h]⟩
  · rw [e]
    exact ⟨⟨rfl, rfl, rfl, rfl, rfl, rfl⟩, by simp [h, advanced], by simp [h, hm, advanced], by simp [hm, advanced],
      by simp [tickEvents, hm, advanced]⟩
  · obtain ⟨h1, h2, h3, h4, -⟩ := entryEffect_spec (nextMode s) (setMode (nextMode s) (advanced s))
    rw [e, enterMode_eq]
    refine ⟨⟨h1.1, h1.2, h1.3, h1.4, h1.5, h1.6⟩, ?_, ?_, ?_, ?_⟩
    · rw [withEvents_cnt, h2, if_pos h]; rfl
    · simp [h, h3]
    · rw [withEvents_fbSel, h4]; simp [h, hm, advanced]
    · simp [tickEvents, h, hm, advanced]

/-- The framebuffers after a tick. -/
theorem fb_tick (s : State) (b : FbIndex) :
    fb (tick s) b =
      if ticking s = true ∧ nextMode s ≠ s.mode then
        if nextMode s = .hblank ∧ displayOn s = true ∧ b = s.fbSel then
          renderRow s.cfg s.calls s.lcdc (lyOf s.cfg (nextCount s.cfg s.cnt)) b s.cfg.width (fb s b)
        else if nextMode s = .vblank ∧ b = otherFb s.fbSel then []
        else fb s b
      else fb s b := by
  rcases tick_cases s with ⟨h, e⟩ | ⟨h, hm, e⟩ | ⟨h, hm, e⟩
  · rw [e]; simp [h]
  · rw [e]; simp [hm, advanced]
  · have hs : scanline (setMode (nextMode s) (advanced s)) = lyOf s.cfg (nextCount s.cfg s.cnt) := rfl
    rw [e, enterMode_eq, fb_withEvents, fb_entryEffect, hs, if_pos (⟨h, hm⟩ : ticking s = true ∧ nextMode s ≠ s.mode)]
    rfl

/-- A tick keeps what decides whether the counter runs. -/
theorem ticking_tick (s : State) : ticking (tick s) = ticking s := by
  have h := (tick_spec s).1
  simp only [ticking, displayOn, h.lcdc, h.cfg]

/-- A tick reads no event: it appends the same events to any list. -/
theorem tick_withEvents (es : List Event) (s : State) :
    tick (withEvents es s) = withEvents (es ++ tickEvents s) (tick s) := by
  have ht : ticking (withEvents es s) = ticking s := rfl
  have hn : nextMode (withEvents es s) = nextMode s := rfl
  have ha : advanced (withEvents es s) = withEvents es (advanced s) := rfl
  rcases tick_cases s with ⟨h, e⟩ | ⟨h, hm, e⟩ | ⟨h, hm, e⟩
  · rw [tick_of_not_ticking (ht.trans h), e]; simp [tickEvents, h]
  · rw [tick_of_same_mode (ht.trans h) (hn.trans hm), e, ha]; simp [tickEvents, hm]
  · rw [tick_of_entry (ht.trans h) (by rw [hn]; exact hm), e, hn, ha, enterMode_eq, enterMode_eq]
    simp [tickEvents, h, hm, setMode_withEvents, entryEffect_withEvents]

/-! ### A run of ticks -/

@[simp] theorem ticks_zero (s : State) : ticks 0 s = s := rfl

theorem ticks_succ (n : Nat) (s : State) : ticks (n + 1) s = ticks n (tick s) := rfl

@[simp] theorem ticks_one (s : State) : ticks 1 s = tick s := rfl

theorem ticks_add (n m : Nat) (s : State) : ticks (n + m) s = ticks m (ticks n s) := by
  induction n generalizing s with
  | zero => simp
  | succ k ih => rw [Nat.succ_add, ticks_succ, ih, ticks_succ]

theorem ticks_succ' (n : Nat) (s : State) : ticks (n + 1) s = tick (ticks n s) := ticks_add n 1 s

/-- A property that every tick keeps holds after any number of ticks. -/
theorem ticks_induction (p : State → Prop) (hp : ∀ s, p s → p (tick s)) (n : Nat) (s : State) (h : p s) :
    p (ticks n s) := by
  induction n generalizing s with
  | zero => exact h
  | succ k ih => exact ih (tick s) (hp s h)

/-- A relation to the start that every tick keeps. -/
theorem ticks_sameRegisters (n : Nat) (s : State) : SameRegisters s (ticks n s) :=
  ticks_induction (SameRegisters s) (fun t h => h.trans (tick_spec t).1) n s (.refl s)

theorem ticking_ticks (n : Nat) (s : State) : ticking (ticks n s) = ticking s :=
  ticks_induction (fun t => ticking t = ticking s) (fun t h => (ticking_tick t).trans h) n s rfl

/-- With the display off under Freeze no number of ticks changes anything (R120). -/
theorem ticks_of_not_ticking {s : State} (h : ticking s = false) (n : Nat) : ticks n s = s := by
  induction n with
  | zero => rfl
  | succ k ih => rw [ticks_succ, tick_of_not_ticking h, ih]

/-! ### What every tick keeps -/

/-- The counter and mode clauses of 10_state.md R36 survive a tick. -/
theorem invariantHolds_tick {s : State} (hc : validConfig s.cfg = true) (hi : invariantHolds s = true) :
    invariantHolds (tick s) = true := by
  obtain ⟨hr, hcnt, hmode, -, -⟩ := tick_spec s
  have htick := ticking_tick s
  cases h : ticking s
  · rw [tick_of_not_ticking h]; exact hi
  · rw [if_pos h] at hcnt hmode
    unfold invariantHolds
    rw [htick, hr.cfg, hcnt, hmode]
    simp [h, nextMode, nextCount_lt hc]

end Sys2Proof.Machine
end

