-- ==== Sys2Proof/Laws/Transactions.lean ====
section
/-! SUPPORT. When a transaction answers and what it answers, for the two guards and for each transaction; what every tick keeps of the machine's invariant. -/

namespace Sys2Proof.Machine

/-! ### The guards -/

/-- A ready state answers with the effect on the state with fresh outputs. -/
theorem transact_of_ready {f : State → State} {s : State} (h : s.Ready) : transact f s = .next (f (quiet s)) := by
  simp [transact, underConfig, h.1, h.2]

/-- A transaction answers a next state in a ready state only. -/
theorem transact_next {f : State → State} {s t : State} (h : transact f s = .next t) : s.Ready ∧ t = f (quiet s) := by
  unfold transact at h
  split at h
  · cases h
  · rename_i hn
    unfold underConfig at h
    split at h
    · rename_i hv
      injection h with h
      refine ⟨⟨hv, ?_⟩, h.symm⟩
      simpa [hv] using hn
    · cases h

/-- Under a valid configuration a state that breaks the invariant is the fault (60_exceptions.md R172). -/
theorem transact_of_broken {f : State → State} {s : State} (hv : validConfig s.cfg = true)
    (hi : invariantHolds s = false) : transact f s = .fault .invariantViolation := by
  simp [transact, hv, hi]

/-- An invalid configuration is refused (00_scope.md R9). -/
theorem transact_of_invalid {f : State → State} {s : State} (hv : validConfig s.cfg = false) :
    transact f s = .refused .badConfiguration := by
  simp [transact, underConfig, hv]

theorem underConfig_of_valid {f : State → State} {s : State} (hv : validConfig s.cfg = true) :
    underConfig f s = .next (f (quiet s)) := by
  simp [underConfig, hv]

theorem underConfig_next {f : State → State} {s t : State} (h : underConfig f s = .next t) :
    validConfig s.cfg = true ∧ t = f (quiet s) := by
  unfold underConfig at h
  split at h
  · rename_i hv; injection h with h; exact ⟨hv, h.symm⟩
  · cases h

/-! ### Every transaction -/

/-- The effect of a transaction on a state with fresh outputs. -/
def effect (i : Instr) (s : State) : State :=
  match i with
  | .rdLcdc => answerByte s.lcdc s
  | .wrLcdc data => if displayEnable data then setLcdc data s else displayOffReset (setLcdc data s)
  | .rdStat => answerByte (statByte s) s
  | .wrStat data => setStatIe (enablesOf data) s
  | .rdLy => answerByte (lyByte s) s
  | .wrLy _ => s
  | .rdLyc => answerByte s.lyc s
  | .wrLyc data => setLyc data s
  | .step n => ticks n s
  | .reset => resetBlock s

/-- RESET runs under every valid configuration, every other transaction in every ready state. -/
theorem exec_eq (i : Instr) (s : State) :
    exec i s = if i = .reset then underConfig (effect .reset) s else transact (effect i) s := by
  cases i <;> rfl

/-- What a transaction that answers did, and when it answers. -/
theorem exec_next {i : Instr} {s t : State} (h : exec i s = .next t) :
    validConfig s.cfg = true ∧ (i = .reset ∨ s.Ready) ∧ t = effect i (quiet s) := by
  rw [exec_eq] at h
  split at h
  · rename_i hi
    subst hi
    obtain ⟨hv, ht⟩ := underConfig_next h
    exact ⟨hv, .inl rfl, ht⟩
  · obtain ⟨hr, ht⟩ := transact_next h
    exact ⟨hr.1, .inr hr, ht⟩

/-- Every transaction answers in a ready state (60_exceptions.md R170). -/
theorem exec_of_ready (i : Instr) {s : State} (h : s.Ready) : exec i s = .next (effect i (quiet s)) := by
  rw [exec_eq]
  split
  · rename_i hi; subst hi; exact underConfig_of_valid h.1
  · exact transact_of_ready h

/-! ### The step -/

theorem step_empty {s : State} (h : s.input = []) : step s = .next (quiet s) := by
  simp [step, takeWord, h]

theorem step_hdma {s : State} {level : Bool} {rest : List Stimulus} (h : s.input = .hdma level :: rest) :
    step s = .next (quiet { s with input := rest, hdmaActive := level }) := by
  simp [step, takeWord, h]

theorem step_word {s : State} {w : TxWord} {rest : List Stimulus} {i : Instr} (h : s.input = .word w :: rest)
    (hw : decode w = .ok i) : step s = exec i { s with input := rest } := by
  simp [step, takeWord, h, hw]

theorem step_refused {s : State} {w : TxWord} {rest : List Stimulus} {e : DecodeError}
    (h : s.input = .word w :: rest) (hw : decode w = .error e) : step s = .refused (refusalOf e) := by
  simp [step, takeWord, h, hw]

/-- Every case of a step. -/
theorem step_cases (s : State) :
    (s.input = [] ∧ step s = .next (quiet s)) ∨
    (∃ level rest, s.input = .hdma level :: rest ∧
      step s = .next (quiet { s with input := rest, hdmaActive := level })) ∨
    (∃ w rest i, s.input = .word w :: rest ∧ decode w = .ok i ∧ step s = exec i { s with input := rest }) ∨
    (∃ w rest e, s.input = .word w :: rest ∧ decode w = .error e ∧ step s = .refused (refusalOf e)) := by
  cases h : s.input with
  | nil => exact .inl ⟨rfl, step_empty h⟩
  | cons x rest =>
    cases x with
    | hdma level => exact .inr (.inl ⟨level, rest, rfl, step_hdma h⟩)
    | word w =>
      cases hw : decode w with
      | ok i => exact .inr (.inr (.inl ⟨w, rest, i, rfl, hw, step_word h hw⟩))
      | error e => exact .inr (.inr (.inr ⟨w, rest, e, rfl, hw, step_refused h hw⟩))

/-! ### What ticks keep -/

/-- Canonical framebuffers are those of every index. -/
theorem fbsCanonical_iff (s : State) :
    s.FbsCanonical ↔ ∀ b, fbCanonical s.cfg.clearPixel (fbSize s.cfg) 0 (fb s b) = true := by
  constructor
  · rintro ⟨h0, h1⟩ b
    fin_cases b
    · exact h0
    · exact h1
  · intro h; exact ⟨h 0, h 1⟩

/-- A tick keeps canonical framebuffers: it writes a row of a visible line or clears a buffer (40_timing_fsm.md R123). -/
theorem fbsCanonical_tick {s : State} (h : s.FbsCanonical) : (tick s).FbsCanonical := by
  rw [fbsCanonical_iff] at h ⊢
  intro b
  rw [(tick_spec s).1.cfg, fb_tick]
  split
  · split
    · rename_i hm
      refine fbCanonical_renderRow (h b) (visible_of_modeOf_ne_vblank ?_) le_rfl
      have : modeOf s.cfg (nextCount s.cfg s.cnt) = .hblank := hm.1
      rw [this]; decide
    · split
      · rfl
      · exact h b
  · exact h b

/-- Ready states with canonical framebuffers stay so over any number of ticks. -/
theorem inv_ticks {s : State} (h : s.Inv) (n : Nat) : (ticks n s).Inv := by
  refine ticks_induction State.Inv (fun t ht => ?_) n s h
  exact ⟨⟨by rw [(tick_spec t).1.cfg]; exact ht.1.1, invariantHolds_tick ht.1.1 ht.1.2⟩, fbsCanonical_tick ht.2⟩

/-- Ready states stay ready over any number of ticks. -/
theorem ready_ticks {s : State} (h : s.Ready) (n : Nat) : (ticks n s).Ready := by
  refine ticks_induction State.Ready (fun t ht => ?_) n s h
  exact ⟨by rw [(tick_spec t).1.cfg]; exact ht.1, invariantHolds_tick ht.1 ht.2⟩

end Sys2Proof.Machine
end

