-- ==== Sys2Proof/Laws/Frames.lean ====
section
/-! SUPPORT. Counting the events of a run of ticks: the count is a sum over the counter values passed, and over a frame a sum over every counter value, line by line (40_timing_fsm.md R102, R124). -/

namespace Sys2Proof.Machine

/-- The counter after n ticks of a running counter (70_reset_and_hazards.md R213). -/
theorem cnt_ticks {s : State} (h : s.Ready) (ht : ticking s = true) (n : Nat) :
    (ticks n s).cnt = (s.cnt + n) % framePeriod s.cfg := by
  induction n with
  | zero =>
    have hlt : s.cnt < framePeriod s.cfg := by
      have := h.2
      simp only [invariantHolds, Bool.and_eq_true, decide_eq_true_eq] at this
      exact this.1.1
    simp [Nat.mod_eq_of_lt hlt]
  | succ k ih =>
    rw [ticks_succ', (tick_spec _).2.1, ticking_ticks, if_pos ht, ih, (ticks_sameRegisters k s).cfg]
    unfold nextCount
    rw [Nat.mod_add_mod, Nat.add_assoc]

/-- Where the number of a tick's events of a kind depends on the new counter value only, over the states of a property
that ticks keep, the number in a run is the sum over the counter values passed. -/
theorem eventCount_ticks (p : Event → Bool) (g : Nat → Nat) (P : State → Prop) (hP : ∀ t, P t → P (tick t))
    {c : Config} (hg : ∀ t, P t → t.cfg = c → ticking t = true → eventCount p (tickEvents t) = g (nextCount c t.cnt))
    {s : State} (h : s.Ready) (hc : s.cfg = c) (ht : ticking s = true) (hs : P s) (n : Nat) :
    eventCount p (ticks n s).events =
      eventCount p s.events + ∑ k ∈ Finset.range n, g ((s.cnt + k + 1) % framePeriod c) := by
  induction n with
  | zero => simp
  | succ k ih =>
    have hk := hg (ticks k s) (ticks_induction P hP k s hs) ((ticks_sameRegisters k s).cfg.trans hc)
      ((ticking_ticks k s).trans ht)
    rw [ticks_succ', (tick_spec _).2.2.2.2]
    unfold eventCount at hk ih ⊢
    rw [List.countP_append, ih, hk, Finset.sum_range_succ, cnt_ticks h ht, hc]
    unfold nextCount
    rw [Nat.mod_add_mod, Nat.add_assoc]

/-- One more tick: one more HBLANK entry if it reaches offset `P_XFER_END` of a visible line. -/
theorem hblankEntries_succ (c : Config) (count n : Nat) :
    hblankEntries c count (n + 1) = hblankEntries c count n +
      if lyOf c (count + n + 1) < c.visible ∧ dotOf c (count + n + 1) = c.xferEnd then 1 else 0 := by
  simp [hblankEntries, List.range_succ, List.countP_append, List.countP_cons]

/-- A tick of a ready state enters HBLANK exactly where its counter reaches offset `P_XFER_END` of a visible line, from a
reset point too (40_timing_fsm.md R102). -/
theorem nextMode_hblank_iff {s : State} (h : s.Ready) :
    nextMode s = .hblank ∧ s.mode ≠ .hblank ↔
      lyOf s.cfg (s.cnt + 1) < s.cfg.visible ∧ dotOf s.cfg (s.cnt + 1) = s.cfg.xferEnd := by
  have hv := (validConfig_iff s.cfg).mp h.1
  have hi := h.2
  simp only [invariantHolds, Bool.and_eq_true, Bool.or_eq_true, decide_eq_true_eq, beq_iff_eq] at hi
  have hn : nextMode s = modeOf s.cfg (s.cnt + 1) := modeOf_mod _
  rcases hi.1.2 with hm | ⟨h0, hm⟩
  · rw [hn, hm]; exact modeOf_enters_hblank_iff h.1 hi.1.1
  · have h1 := (lyOf_one h.1).2
    rw [hm, h0, Nat.zero_add, h1]
    simp; omega

/-- A tick of a running counter has one chunk where it enters HBLANK with the line sampled high, and with the display on
one render at each HBLANK entry (40_timing_fsm.md R113, R116). -/
theorem hblank_counts_tick {s : State} (h : s.Ready) (ht : ticking s = true) :
    let entry := if lyOf s.cfg (s.cnt + 1) < s.cfg.visible ∧ dotOf s.cfg (s.cnt + 1) = s.cfg.xferEnd then 1 else 0
    eventCount (fun e => e == .hdmaChunk) (tickEvents s) = (if hdmaSample s then entry else 0) ∧
    (displayOn s = true → eventCount isRender (tickEvents s) = entry) := by
  have hiff := nextMode_hblank_iff h
  have hd : displayOn (advanced s) = displayOn s := rfl
  have hh : hdmaSample (advanced s) = hdmaSample s := rfl
  by_cases he : nextMode s = .hblank ∧ s.mode ≠ .hblank
  · have hne : nextMode s ≠ s.mode := by rw [he.1]; exact Ne.symm he.2
    rw [if_pos (hiff.mp he), tickEvents, if_pos ⟨ht, hne⟩, he.1]
    simp only [entryEvents, statEvents, hd, hh]
    cases displayOn s <;> cases hdmaSample s <;> cases enabled (advanced s) .hbl <;>
      simp [eventCount, List.countP_cons, isRender]
  · simp only [if_neg fun x => he (hiff.mpr x), tickEvents]
    split
    · rename_i hne
      cases hm : nextMode s
      · exact absurd ⟨hm, fun x => hne.2 (hm.trans x.symm)⟩ he
      all_goals
        simp only [entryEvents, statEvents]
        constructor <;> (repeat' split) <;> simp [eventCount, isRender]
    · simp [eventCount]

/-- The input line after a tick: a chunk may clear it, by the free value of its call, and nothing else moves it (log
entries 10 and 11). -/
theorem hdmaActive_tick (s : State) :
    (tick s).hdmaActive = (s.hdmaActive && !(eventCount (fun e => e == .hdmaChunk) (tickEvents s) != 0 &&
      Config.chunkEndsTransfer (if displayOn s then s.calls + 1 else s.calls))) := by
  rcases tick_cases s with ⟨h, e⟩ | ⟨h, hm, e⟩ | ⟨h, hm, e⟩
  · rw [e]; simp [tickEvents, h, eventCount]
  · rw [e]; simp [tickEvents, hm, eventCount, advanced]
  · rw [e, enterMode_eq, tickEvents, if_pos ⟨h, hm⟩]
    cases nextMode s with
    | hblank =>
      have h1 : displayOn (setMode .hblank (advanced s)) = displayOn s := rfl
      have h2 : hdmaSample (setMode .hblank (advanced s)) = hdmaSample s := rfl
      have h3 : displayOn (advanced s) = displayOn s := rfl
      have h4 : hdmaSample (advanced s) = hdmaSample s := rfl
      simp only [entryEffect, entryEvents, statEvents, h1, h2, h3, h4]
      cases displayOn s <;> cases hdmaSample s <;> (try cases enabled (advanced s) .hbl) <;>
        simp [eventCount, callHdmaChunk, callRender, advanced, setMode, setCnt]
    | vblank =>
      simp only [entryEffect, entryEvents, statEvents]
      split <;> simp [eventCount, advanced]
    | oamSearch =>
      simp only [entryEffect, entryEvents, statEvents]
      repeat' split
      all_goals simp [eventCount, advanced]
    | pixelTransfer => simp [entryEffect, entryEvents, eventCount, advanced]

/-- The counter values passed in one frame are all of them, wherever the frame starts. -/
theorem sum_frame (g : Nat → Nat) (m a : Nat) (hm : 0 < m) :
    ∑ k ∈ Finset.range m, g ((a + k + 1) % m) = ∑ k ∈ Finset.range m, g k := by
  induction a with
  | zero =>
    obtain ⟨j, rfl⟩ : ∃ j, m = j + 1 := ⟨m - 1, by omega⟩
    rw [Finset.sum_range_succ, Finset.sum_range_succ']
    congr 1
    · refine Finset.sum_congr rfl fun k hk => ?_
      rw [Nat.zero_add, Nat.mod_eq_of_lt (by simpa using hk)]
    · simp
  | succ b ih =>
    rw [← ih]
    obtain ⟨j, rfl⟩ : ∃ j, m = j + 1 := ⟨m - 1, by omega⟩
    rw [Finset.sum_range_succ, Finset.sum_range_succ' (fun k => g ((b + k + 1) % (j + 1)))]
    congr 1
    · refine Finset.sum_congr rfl fun k _ => ?_
      congr 2; omega
    · rw [show b + 1 + j + 1 = b + 0 + 1 + (j + 1) by omega, Nat.add_mod_right]

/-- A sum over a frame, line by line. -/
theorem sum_lines (g : Nat → Nat) (period lines : Nat) :
    ∑ k ∈ Finset.range (period * lines), g k =
      ∑ line ∈ Finset.range lines, ∑ dot ∈ Finset.range period, g (line * period + dot) := by
  induction lines with
  | zero => simp
  | succ l ih => rw [Nat.mul_succ, Finset.sum_range_add, ih, Finset.sum_range_succ, Nat.mul_comm period l]

/-- A state stays at its derived mode once it is there. -/
theorem derivedMode_tick {t : State} (h : t.mode = modeOf t.cfg t.cnt) : (tick t).mode = modeOf (tick t).cfg (tick t).cnt := by
  obtain ⟨hr, hcnt, hmode, -, -⟩ := tick_spec t
  rw [hmode, hr.cfg, hcnt]
  split
  · rfl
  · exact h

end Sys2Proof.Machine
end

