-- ==== Sys2Proof/Laws/PerInstr.lean ====
section
/-! SUPPORT. Per transaction: the encoded word matches the transaction's own row of the opcode map (30_encoding.md R76). -/

namespace Sys2Proof.Laws.RowAccepts

/-- The word of a transaction is accepted by the row of its mnemonic (R76). -/
def Statement (i : Instr) : Prop :=
  ∃ r ∈ opcodeRows, r.mnemonic = mnemonic i ∧ r.accepts (encode i) = true

theorem rdLcdc : Statement .rdLcdc := ⟨opcodeRows[0], by decide, rfl, by decide⟩

theorem wrLcdc (data : Byte) : Statement (.wrLcdc data) :=
  ⟨opcodeRows[1], by decide, rfl, by revert data; decide⟩

theorem rdStat : Statement .rdStat := ⟨opcodeRows[2], by decide, rfl, by decide⟩

theorem wrStat (data : Byte) : Statement (.wrStat data) :=
  ⟨opcodeRows[3], by decide, rfl, by revert data; decide⟩

theorem rdLy : Statement .rdLy := ⟨opcodeRows[4], by decide, rfl, by decide⟩

theorem wrLy (data : Byte) : Statement (.wrLy data) :=
  ⟨opcodeRows[5], by decide, rfl, by revert data; decide⟩

theorem rdLyc : Statement .rdLyc := ⟨opcodeRows[6], by decide, rfl, by decide⟩

theorem wrLyc (data : Byte) : Statement (.wrLyc data) :=
  ⟨opcodeRows[7], by decide, rfl, by revert data; decide⟩

theorem step (n : Nat) : Statement (.step n) := by
  refine ⟨opcodeRows[8], by decide, rfl, ?_⟩
  generalize hx : BitVec.ofNat 30 n = x
  have h : (2#2 ++ x : TxWord) &&& 0xC0000000#32 = 0x80000000#32 := by
    apply BitVec.eq_of_getLsbD_eq
    intro i hi
    rw [BitVec.getLsbD_and, BitVec.getLsbD_append]
    by_cases h30 : i < 30
    · have : ∀ j : Fin 30, (0xC0000000#32).getLsbD j = false ∧ (0x80000000#32).getLsbD j = false := by decide
      simp only [this ⟨i, h30⟩, Bool.and_false]
    · rw [if_neg h30]
      obtain rfl | rfl : i = 30 ∨ i = 31 := by omega
      · decide
      · decide
  simpa [OpcodeRow.accepts, encode, hx, opcodeRows] using h

theorem reset : Statement .reset := ⟨opcodeRows[9], by decide, rfl, by decide⟩

end Sys2Proof.Laws.RowAccepts
end

