-- ==== Sys2Proof/Tests/Slice0.lean ====
section
/-! SUPPORT. The model's own tests, with expected results from 95_test_vectors.md and the rules' examples, and for every statement with hypotheses a concrete state that meets them. -/

namespace Sys2Proof.Tests

open Sys2Proof.Machine

/-! ### Helpers -/

/-- A state of the default configuration by its tick-vector columns (95_test_vectors.md section 2.2). -/
def vec (policy : DisplayOffPolicy) (cnt : Nat) (mode : Mode) (statIe : BitVec 4) (lyc lcdc : Byte) (hdma : Bool) :
    State :=
  { State.resetWith { Config.defaults with displayOffPolicy := policy } with
    cnt := cnt, mode := mode, statIe := statIe, lyc := lyc, lcdc := lcdc, hdmaActive := hdma }

/-- The outcome is a next state with this property. -/
def goesTo (o : Answer) (p : State → Bool) : Bool :=
  match o with
  | .next t => p t
  | .fault _ => false
  | .refused _ => false

/-- The outcome is the fault. -/
def isFault (o : Answer) : Bool :=
  match o with
  | .next _ => false
  | .fault _ => true
  | .refused _ => false

/-- The outcome is this refusal. -/
def isRefusal (r : Refusal) (o : Answer) : Bool :=
  match o with
  | .next _ => false
  | .fault _ => false
  | .refused q => q == r

/-- A tick from a vector's state: the columns "after" and "events". -/
def ticksTo (s : State) (cnt : Nat) (mode : Mode) (fbSel : FbIndex) (events : List Event) : Bool :=
  goesTo (exec (.step 1) s) fun t => t.cnt == cnt && t.mode == mode && t.fbSel == fbSel && t.events == events

/-- A word delivered to a state by a step. -/
def delivered (s : State) (w : TxWord) : State := { s with input := [.word w] }

/-- A small configuration: lines of 4 cycles, 3 lines, 2 of them visible. -/
def tiny : Config :=
  { Config.defaults with linePeriod := 4, lines := 3, visible := 2, oamEnd := 2, xferEnd := 3, width := 2 }

/-- A frame of one visible line and one VBLANK line, and its reset state with the LYC source enabled. -/
def oneLine : Config := { tiny with lines := 2, visible := 1 }
def oneLineReset : State := { State.resetWith oneLine with statIe := 8#4 }

/-- The reset state with P_LCDC_RESET = 0x11. -/
def offReset : State := State.resetWith { Config.defaults with lcdcReset := 0x11#8 }

/-! ### WellFormed -/

/-- The bound of R74, at its edge: the greatest count, and the ill-formed term the check refuses. -/
theorem test_wellFormed_step :
    (Instr.step (2 ^ 30 - 1)).wellFormed = true ∧ (Instr.step (2 ^ 30)).wellFormed = false := by decide

/-! ### Decoding (30_encoding.md R70, R76; 95_test_vectors.md sections 2.4 to 2.6) -/

theorem test_decode_rdLcdc : decode 0b00000000000000000100000000000000#32 = .ok .rdLcdc := by decide
theorem test_decode_wrLcdc : decode 0b01000000000000000100000010010011#32 = .ok (.wrLcdc 0x93#8) := by decide
theorem test_decode_rdStat : decode 0b00000000000000000100000100000000#32 = .ok .rdStat := by decide
theorem test_decode_wrStat : decode 0b01000000000000000100000100000111#32 = .ok (.wrStat 0x07#8) := by decide
theorem test_decode_rdLy : decode 0b00000000000000000100010000000000#32 = .ok .rdLy := by decide
theorem test_decode_wrLy : decode 0b01000000000000000100010001010000#32 = .ok (.wrLy 0x50#8) := by decide
theorem test_decode_rdLyc : decode 0b00000000000000000100010100000000#32 = .ok .rdLyc := by decide
theorem test_decode_wrLyc : decode 0b01000000000000000100010110001111#32 = .ok (.wrLyc 143#8) := by decide
theorem test_decode_step : decode 0b10000000000000000000000011111100#32 = .ok (.step 252) := by decide
theorem test_decode_reset : decode 0b11000000000000000000000000000000#32 = .ok .reset := by decide

/-- X1 to X6: the refused words and the reasons, and the greatest STEP. -/
theorem test_decode_refused :
    decode 0x00004200#32 = .error .unownedPort ∧ decode 0x40004655#32 = .error .unownedPort ∧
    decode 0x00004101#32 = .error .reservedBits ∧ decode 0x40014000#32 = .error .reservedBits ∧
    decode 0xC0000001#32 = .error .reservedBits ∧ decode 0xBFFFFFFF#32 = .ok (.step (2 ^ 30 - 1)) := by decide

theorem test_decodeTableWord : decodeTableWord 32 0x80000390 = some (.step 912) ∧ decodeTableWord 32 0xC0000001 = none := by
  decide

/-- A refused word stops the step, by its name (R171). -/
theorem test_step_refuses :
    isRefusal .unownedPort (step (delivered State.reset 0x00004200#32)) = true ∧
    isRefusal .reservedBits (step (delivered State.reset 0x40014000#32)) = true := by decide

/-- A malformed word under a configuration that breaks R9, and in a state that breaks R36 (log entry 22). -/
theorem test_step_refuses_first :
    isRefusal .reservedBits (step (delivered (State.resetWith { tiny with oamEnd := 0 }) 0x40014000#32)) = true ∧
    isRefusal .badConfiguration (step (delivered (State.resetWith { tiny with oamEnd := 0 }) 0x00004000#32)) = true ∧
    isRefusal .unownedPort (step (delivered (vec .freeze 1000 .vblank 0 0 0x91 false) 0x00004200#32)) = true := by decide

/-- R78: the pseudo-transactions with the defaults. -/
theorem test_assemble :
    assemble Config.defaults .line = some (.step 456) ∧ assemble Config.defaults .frame = some (.step 70224) ∧
    assemble Config.defaults (.lcdOff 0x91#8) = some (.wrLcdc 0x11#8) ∧
    assemble Config.defaults (.rd (.number 0x42#8)) = none := by decide

/-! ### The mode function (95_test_vectors.md section 2.1) -/

theorem test_modeOf :
    [0, 1, 79, 80, 251, 252, 455, 456, 535, 536, 708, 65208, 65663, 65664, 65665, 70223].map
      (fun c => (modeCode (modeOf Config.defaults c)).toNat) = [2, 2, 2, 3, 3, 0, 0, 2, 2, 3, 0, 2, 0, 1, 1, 1] := by
  decide

/-! ### Register access (95_test_vectors.md section 2.4) -/

/-- A1, and 0x11 read back. -/
theorem test_rdLcdc :
    goesTo (exec .rdLcdc State.reset) (fun t => t.result == some 0x91#8) = true ∧
    goesTo (exec .rdLcdc { State.reset with lcdc := 0x11#8 }) (fun t => t.result == some 0x11#8) = true := by decide

/-- A7, A8 and A9: bit 7 clear resets the timing state, bit 7 set does not, whatever it was. -/
theorem test_wrLcdc :
    goesTo (exec (.wrLcdc 0x11#8) (vec .freeze 300 .hblank 0 0 0x91 false))
      (fun t => t.lcdc == 0x11#8 && t.cnt == 0 && t.mode == .hblank && t.events == []) = true ∧
    goesTo (exec (.wrLcdc 0x93#8) (vec .freeze 300 .hblank 0 0 0x91 false))
      (fun t => t.lcdc == 0x93#8 && t.cnt == 300 && t.mode == .hblank) = true ∧
    goesTo (exec (.wrLcdc 0x91#8) (vec .freeze 0 .hblank 0 0 0x11 false))
      (fun t => t.lcdc == 0x91#8 && t.cnt == 0 && t.mode == .hblank && t.events == []) = true := by decide

/-- A2 and A14: COINC and mode at reset, and on a VBLANK line. -/
theorem test_rdStat :
    goesTo (exec .rdStat State.reset) (fun t => t.result == some 0x84#8) = true ∧
    goesTo (exec .rdStat (vec .freeze 68400 .vblank 0x8 150 0x91 false)) (fun t => t.result == some 0xC5#8) = true := by
  decide

/-- A5 and A6: bits 6..3 are stored, the others ignored. -/
theorem test_wrStat :
    goesTo (exec (.wrStat 0xFF#8) State.reset) (fun t => statByte t == 0xFC#8) = true ∧
    goesTo (exec (.wrStat 0x07#8) State.reset) (fun t => statByte t == 0x84#8) = true := by decide

/-- A3 and A13. -/
theorem test_rdLy :
    goesTo (exec .rdLy State.reset) (fun t => t.result == some 0x00#8) = true ∧
    goesTo (exec .rdLy (vec .freeze 65664 .vblank 0 0 0x91 false)) (fun t => t.result == some 0x90#8) = true := by decide

/-- A10. -/
theorem test_wrLy :
    goesTo (exec (.wrLy 0x50#8) (vec .freeze 912 .oamSearch 0 0 0x91 false))
      (fun t => lyByte t == 0x02#8 && t.cnt == 912 && t.events == []) = true := by decide

/-- A4 and A12. -/
theorem test_rdLyc :
    goesTo (exec .rdLyc State.reset) (fun t => t.result == some 0x00#8) = true ∧
    goesTo (exec .rdLyc { State.reset with lyc := 0xC8#8 }) (fun t => t.result == some 0xC8#8) = true := by decide

/-- A11: COINC follows the write at once, with no event. -/
theorem test_wrLyc :
    goesTo (exec (.wrLyc 0x0A#8) (vec .freeze 4560 .oamSearch 0 0 0x91 false))
      (fun t => (statByte t).getLsbD 2 && t.events == [] && t.lyc == 0x0A#8) = true := by decide

/-! ### Ticks and reset (95_test_vectors.md sections 2.2 and 2.5) -/

/-- T1 to T8: the entries with the display on. -/
theorem test_tick_entries :
    ticksTo (vec .freeze 79 .oamSearch 0xF 0 0x91 false) 80 .pixelTransfer 0 [] = true ∧
    ticksTo (vec .freeze 251 .pixelTransfer 0xF 0 0x91 true) 252 .hblank 0
      [.irqStat .hbl, .renderLine 0 0, .hdmaChunk] = true ∧
    ticksTo (vec .freeze 251 .pixelTransfer 0x0 0 0x91 false) 252 .hblank 0 [.renderLine 0 0] = true ∧
    ticksTo (vec .freeze 455 .hblank 0xF 0 0x91 false) 456 .oamSearch 0 [.irqStat .oam] = true ∧
    ticksTo (vec .freeze 455 .hblank 0xF 1 0x91 false) 456 .oamSearch 0 [.irqStat .oam, .irqStat .lyc] = true ∧
    ticksTo (vec .freeze 65663 .hblank 0xF 0 0x91 false) 65664 .vblank 1
      [.irqVBlank, .irqStat .vbl, .frameReady 0, .swap 1] = true ∧
    ticksTo (vec .freeze 70223 .vblank 0xF 0 0x91 false) 0 .oamSearch 0 [.irqStat .oam, .irqStat .lyc] = true ∧
    ticksTo (vec .freeze 0 .hblank 0xF 0 0x91 false) 1 .oamSearch 0 [.irqStat .oam, .irqStat .lyc] = true := by decide

/-- T9 to T14: the display off under both policies, the broken state, and DMG with the line high. -/
theorem test_tick_display_off :
    ticksTo (vec .freeze 0 .hblank 0xF 0 0x11 false) 0 .hblank 0 [] = true ∧
    ticksTo (vec .runGated 0 .hblank 0xF 0 0x11 false) 1 .oamSearch 0 [.irqStat .oam, .irqStat .lyc] = true ∧
    ticksTo (vec .runGated 251 .pixelTransfer 0xF 0 0x11 true) 252 .hblank 0 [.hdmaChunk] = true ∧
    ticksTo (vec .runGated 65663 .hblank 0xF 0 0x11 false) 65664 .vblank 1
      [.irqVBlank, .irqStat .vbl, .frameReady 0, .swap 1] = true ∧
    isFault (exec (.step 1) (vec .freeze 1000 .vblank 0 0 0x91 false)) = true ∧
    ticksTo { State.resetWith { Config.defaults with variant := .dmg } with
        cnt := 251, mode := .pixelTransfer, hdmaActive := true } 252 .hblank 0 [.renderLine 0 0] = true := by decide

/-- RS1: RESET from a state of any kind, one that breaks R36 here. -/
theorem test_reset :
    goesTo (exec .reset { vec .freeze 65664 .hblank 0xF 7 0x00 true with fbSel := 1, fb0 := [(3, 0x1234#16)] })
      (fun t => t == { State.reset with hdmaActive := true }) = true := by decide

/-- RS2, for every count: a reset value of LCDC that leaves the display off, under Freeze. -/
theorem test_reset_off (n : Nat) :
    goesTo (exec (.step n) offReset) (fun t => t == offReset) = true := by
  rw [exec_of_ready (.step n) (by decide)]
  have h : ticks n (quiet offReset) = quiet offReset := ticks_of_not_ticking (by decide) n
  simp only [goesTo, effect, h]
  decide

/-- A framebuffer write: kept in order, unlisted again when it becomes the clear pixel (R14, R29). -/
theorem test_fbPut :
    fbPut 0#16 (fbPut 0#16 [] 7 5#16) 2 9#16 = [(2, 9#16), (7, 5#16)] ∧ fbPut 0#16 [(2, 9#16), (7, 5#16)] 7 0#16 = [(2, 9#16)] := by
  decide

/-! ### Each statement's hypotheses are met -/

theorem witness_ready : State.reset.Ready ∧ State.reset.Inv := by decide

/-- RefusedWordsAreNamed, clause by clause at the edges: one reserved bit, the port beside an owned one. -/
theorem witness_refused_words :
    decode 0x40010000#32 = .error .reservedBits ∧ decode 0x00004080#32 = .error .reservedBits ∧
    decode 0xE0000000#32 = .error .reservedBits ∧ decode 0x00003F00#32 = .error .unownedPort ∧
    decode 0x40004600#32 = .error .unownedPort ∧ decode 0x80000000#32 = .ok (.step 0) ∧
    (∃ s : State, s.input = [.word 0x00003F00#32]) := by
  refine ⟨by decide, by decide, by decide, by decide, by decide, by decide, ⟨delivered State.reset 0x00003F00#32, rfl⟩⟩

/-- DecodeEncodeRoundTrip at the greatest operands, DecodedWordIsTheOnlyEncoding and DecoderAcceptsTheOpcodeMap at their words. -/
theorem witness_roundTrip :
    (Instr.step (2 ^ 30 - 1)).wellFormed = true ∧ encode (.step (2 ^ 30 - 1)) = 0xBFFFFFFF#32 ∧
    encode (.wrLyc 0xFF#8) = 0x400045FF#32 ∧ decode 0x400045FF#32 = .ok (.wrLyc 0xFF#8) ∧
    0x400045FF#32 &&& 0xFFFFFF00#32 = 0x40004500#32 := by decide

/-- AssemblerLinesAreTransactions: a line that stands for a transaction, a number that names a port and the numbers beside
it, the greatest count and the next. -/
theorem witness_assembler :
    assemble Config.defaults (.step (2 ^ 30 - 1)) = some (.step (2 ^ 30 - 1)) ∧
    assemble Config.defaults (.step (2 ^ 30)) = none ∧ 0x41#8 ∈ [0x40#8, 0x41#8, 0x44#8, 0x45#8] ∧
    0x42#8 ∉ [0x40#8, 0x41#8, 0x44#8, 0x45#8] ∧ 0x3F#8 ∉ [0x40#8, 0x41#8, 0x44#8, 0x45#8] ∧
    0x46#8 ∉ [0x40#8, 0x41#8, 0x44#8, 0x45#8] := by decide

/-- StepRunsTheDeliveredTransaction: the three kinds of input. -/
theorem witness_step :
    (delivered State.reset 0x00004400#32).input = .word 0x00004400#32 :: [] ∧ decode 0x00004400#32 = .ok .rdLy ∧
    State.reset.input = [] ∧ ({ State.reset with input := [.hdma true] } : State).input = .hdma true :: [] := by decide

/-- StepsConsumeInArrivalOrder: a step that goes on, of each kind of input. -/
theorem witness_step_next :
    (∃ t, step (delivered State.reset 0x00004400#32) = .next t) ∧ (∃ t, step State.reset = .next t) ∧
    (∃ t, step { State.reset with input := [.hdma true] } = .next t) := by
  refine ⟨⟨_, rfl⟩, ⟨_, rfl⟩, ⟨_, rfl⟩⟩

/-- The register accesses, with bit 7 at both values. -/
theorem witness_wrLcdc :
    State.reset.Ready ∧ (0x80#8).getLsbD 7 = true ∧ (0x7F#8).getLsbD 7 = false := by decide

/-- RdLyReturnsTheScanline: the display off under Freeze, and the rule's example. -/
theorem witness_rdLy :
    (vec .freeze 0 .hblank 0 0 0x11 false).Ready ∧
    (vec .freeze 0 .hblank 0 0 0x11 false).cfg.displayOffPolicy = .freeze ∧
    (vec .freeze 0 .hblank 0 0 0x11 false).lcdc.getLsbD 7 = false ∧ validConfig State.reset.cfg = true ∧
    (vec .freeze 65664 .vblank 0 0 0x91 false).Ready ∧ (vec .freeze 65664 .vblank 0 0 0x91 false).cfg = Config.defaults ∧
    (vec .freeze 65664 .vblank 0 0 0x91 false).cnt = 65664 := by decide

/-- WrLycStoresAndMovesCoincidence: the least value that is no line number. -/
theorem witness_wrLyc :
    (vec .freeze 70223 .vblank 0 154 0x91 false).Ready ∧
    (vec .freeze 70223 .vblank 0 154 0x91 false).cfg.lines ≤ (vec .freeze 70223 .vblank 0 154 0x91 false).lyc.toNat := by
  decide

/-- RegisterAccessesAreQuiet: an access, and a read. -/
theorem witness_accesses :
    Instr.wrLcdc 0x11#8 ≠ .reset ∧ (∀ n, Instr.wrLcdc 0x11#8 ≠ .step n) ∧
    Instr.rdLyc ∈ [Instr.rdLcdc, .rdStat, .rdLy, .rdLyc] ∧ State.reset.Ready := by
  refine ⟨by decide, fun n => by simp, by decide, by decide⟩

/-- ResetLeavesTheResetValues and PowerOnIsTheResetState: a state that breaks R36, and a reset that answers. -/
theorem witness_reset :
    validConfig (vec .freeze 65664 .hblank 0xF 7 0x00 true).cfg = true ∧
    (vec .freeze 65664 .hblank 0xF 7 0x00 true).cfg = Config.defaults ∧
    invariantHolds (vec .freeze 65664 .hblank 0xF 7 0x00 true) = false ∧
    (∃ t, exec .reset (vec .freeze 65664 .hblank 0xF 7 0x00 true) = .next t) ∧ validConfig tiny = true ∧
    (vec .freeze 65664 .vblank 0xF 7 0x91 true).Ready ∧ (vec .freeze 65664 .vblank 0xF 7 0x91 true).cfg = Config.defaults := by
  refine ⟨by decide, by decide, by decide, ⟨_, rfl⟩, by decide, by decide, by decide⟩

/-- StepKeepsTheInvariant and NoRunFromResetFaults. -/
theorem witness_invariant :
    (delivered State.reset 0x80000001#32).Inv ∧ (∃ t, step (delivered State.reset 0x80000001#32) = .next t) ∧
    validConfig Config.defaults = true := by
  refine ⟨by decide, ⟨_, rfl⟩, by decide⟩

/-- BrokenInvariantIsTheFault: each clause of R36 broken at its edge, and met. -/
theorem witness_broken :
    validConfig (vec .freeze 70224 .oamSearch 0 0 0x91 false).cfg = true ∧
    ¬ (vec .freeze 70224 .oamSearch 0 0 0x91 false).Ready ∧ ¬ (vec .freeze 0 .vblank 0 0 0x91 false).Ready ∧
    ¬ (vec .freeze 1 .oamSearch 0 0 0x11 false).Ready ∧ (vec .freeze 70223 .vblank 0 0 0x91 false).Ready ∧
    (vec .runGated 1 .oamSearch 0 0 0x11 false).Ready := by decide

/-- InvalidConfigurationIsRefused: each constraint of R9 broken at its edge, and met at it. -/
theorem witness_invalid :
    validConfig { tiny with oamEnd := 0 } = false ∧ validConfig { tiny with xferEnd := 2 } = false ∧
    validConfig { tiny with xferEnd := 4 } = false ∧ validConfig { tiny with visible := 0 } = false ∧
    validConfig { tiny with visible := 3 } = false ∧ validConfig { tiny with lines := 257 } = false ∧
    validConfig { tiny with lines := 256 } = true ∧ validConfig { tiny with oamEnd := 1 } = true := by decide

/-- ModeFollowsLineAndOffset and ModeChangesExactlyAtTheTabledCounts: the edges of every mode of a line. -/
theorem witness_modes :
    validConfig Config.defaults = true ∧ 153 < Config.defaults.lines ∧ 455 < Config.defaults.linePeriod ∧
    [(0, 0), (0, 79), (0, 80), (0, 251), (0, 252), (143, 455), (144, 0), (153, 455)].map
      (fun p : Nat × Nat => (modeCode (modeOf Config.defaults (p.1 * 456 + p.2))).toNat) = [2, 2, 3, 3, 0, 0, 1, 1] ∧
    [70223, 79, 251, 455, 65663].map (fun n => decide (n < framePeriod Config.defaults) &&
      decide (modeOf Config.defaults (nextCount Config.defaults n) ≠ modeOf Config.defaults n)) =
      [true, true, true, true, true] ∧
    modeOf Config.defaults (nextCount Config.defaults 65664) = modeOf Config.defaults 65664 := by decide

/-- TickAdvancesCounterAndMode: within a mode, and at the wrap. -/
theorem witness_tick :
    (vec .freeze 70223 .vblank 0 0 0x91 false).Ready ∧ ticking (vec .freeze 70223 .vblank 0 0 0x91 false) = true ∧
    (vec .freeze 100 .pixelTransfer 0 0 0x91 false).Ready ∧
    modeOf Config.defaults 101 = (vec .freeze 100 .pixelTransfer 0 0 0x91 false).mode := by decide

/-- HblankEntryRendersAndRaises, on the first and the last visible line, and with the display off; and a row has pixels. -/
theorem witness_hblank :
    [vec .freeze 251 .pixelTransfer 0xF 0 0x91 true, vec .freeze 65459 .pixelTransfer 0 0 0x91 false,
      vec .runGated 251 .pixelTransfer 0xF 0 0x11 true].all (fun s => decide s.Inv && ticking s &&
        modeOf s.cfg (nextCount s.cfg s.cnt) == .hblank && s.mode != .hblank && decide (159 < s.cfg.width)) = true := by
  decide

/-- PixelTransferEntryHasNoSideEffect. -/
theorem witness_pixelTransfer :
    (vec .freeze 79 .oamSearch 0xF 0 0x91 true).Ready ∧ ticking (vec .freeze 79 .oamSearch 0xF 0 0x91 true) = true ∧
    modeOf Config.defaults (nextCount Config.defaults 79) = .pixelTransfer := by decide

/-- OamSearchEntryRaisesOamThenLyc: from HBLANK, at the wrap, and right after a reset; and a tick that raises LYC. -/
theorem witness_oamSearch :
    [vec .freeze 455 .hblank 0xF 1 0x91 false, vec .freeze 70223 .vblank 0xF 0 0x91 false,
      vec .runGated 0 .hblank 0xF 0 0x11 false].all (fun s => decide s.Ready && ticking s &&
        modeOf s.cfg (nextCount s.cfg s.cnt) == .oamSearch && s.mode != .oamSearch &&
        goesTo (exec (.step 1) s) (fun t => t.events.contains (.irqStat .lyc))) = true := by decide

/-- VblankEntryNotifiesAndSwaps. -/
theorem witness_vblank :
    [vec .freeze 65663 .hblank 0xF 0 0x91 false, vec .runGated 65663 .hblank 0 0 0x11 false].all
      (fun s => decide s.Ready && ticking s && modeOf s.cfg (nextCount s.cfg s.cnt) == .vblank && s.mode != .vblank) =
      true := by decide

/-- DisplayOffPolicies: a state for each policy. -/
theorem witness_displayOff :
    (vec .freeze 0 .hblank 0xF 0 0x11 false).Ready ∧ (vec .runGated 251 .pixelTransfer 0xF 0 0x11 true).Ready ∧
    (vec .runGated 251 .pixelTransfer 0xF 0 0x11 true).lcdc.getLsbD 7 = false ∧
    goesTo (exec (.step 1) { vec .runGated 65663 .hblank 0xF 0 0x11 true with lcdc := 0x11#8 ||| 0x80#8 })
      (fun t => t.events.all (fun e => !isRender e)) = true := by decide

/-- FirstTickAfterResetEntersOamSearch and LcdcWriteThenTick: P_OAM_END at its least value for them. -/
theorem witness_firstTick :
    (State.resetWith tiny).Ready ∧ (State.resetWith tiny).cnt = 0 ∧ (State.resetWith tiny).mode = .hblank ∧
    ticking (State.resetWith tiny) = true ∧ 1 < tiny.oamEnd ∧
    (vec .freeze 0 .hblank 0 0 0x11 false).Ready ∧ (vec .runGated 300 .hblank 0 0 0x11 false).Ready := by decide

/-- ScanlineAndCoincidenceMirrorTheCounter, EachRegisterHasItsWriters: a transaction of each kind answers, and each kind of
register changes. -/
theorem witness_answers :
    goesTo (exec (.wrLcdc 0x00#8) State.reset) (fun t => t.lcdc != State.reset.lcdc) = true ∧
    goesTo (exec (.wrStat 0x08#8) State.reset) (fun t => t.statIe != State.reset.statIe) = true ∧
    goesTo (exec (.wrLyc 0x01#8) State.reset) (fun t => t.lyc != State.reset.lyc) = true ∧
    goesTo (exec (.step 1) (vec .freeze 65663 .hblank 0 0 0x91 false)) (fun t => t.fbSel != 0) = true := by decide

/-- OnlyTicksAndResetsMoveTheTimingState: each of the three moves it. -/
theorem witness_timing_moves :
    goesTo (exec (.step 1) State.reset) (fun t => t.cnt != 0) = true ∧
    goesTo (exec .reset (vec .freeze 300 .hblank 0 0 0x91 false)) (fun t => t.cnt != 300) = true ∧
    goesTo (exec (.wrLcdc 0x7F#8) (vec .freeze 300 .hblank 0 0 0x91 false)) (fun t => t.cnt != 300) = true := by decide

/-- OnlyLcdcWritesWakeTheDisplay: both ways to wake. -/
theorem witness_wake :
    goesTo (step (delivered (vec .freeze 0 .hblank 0 0 0x11 false) 0x40004080#32)) (fun t => t.lcdc.getLsbD 7) = true ∧
    goesTo (step (delivered (vec .freeze 0 .hblank 0 0 0x11 false) 0xC0000000#32)) (fun t => t.lcdc.getLsbD 7) = true := by
  decide

/-- The statements over any STEP: a run in which the events they speak of appear. -/
theorem witness_step_events :
    goesTo (exec (.step 1) (vec .freeze 455 .hblank 0xF 1 0x91 false)) (fun t => t.events.contains (.irqStat .lyc)) = true ∧
    goesTo (exec (.step 1) (vec .freeze 251 .pixelTransfer 0xF 0 0x91 true))
      (fun t => t.events.contains (.irqStat .hbl) && t.events.contains (.renderLine 0 0) && t.events.contains .hdmaChunk) = true ∧
    goesTo (exec (.step 1) (vec .freeze 65663 .hblank 0xF 0 0x91 false)) (fun t => t.events.contains (.irqStat .vbl)) = true ∧
    1 ≤ framePeriod Config.defaults ∧
    (vec .freeze 455 .hblank 0xF 1 0x91 false).mode = modeOf Config.defaults (vec .freeze 455 .hblank 0xF 1 0x91 false).cnt := by
  decide

/-- LycRaisesOnVisibleLinesOnly: a frame from the reset point with LYC 0 raises twice, one tick less once, and a frame
from the derived mode once. -/
theorem witness_lyc_twice :
    framePeriod oneLine = 8 ∧ oneLineReset.Ready ∧ ({ oneLineReset with mode := .oamSearch } : State).Ready ∧
    goesTo (exec (.step 8) oneLineReset) (fun t => eventCount (fun e => e == .irqStat .lyc) t.events == 2) = true ∧
    goesTo (exec (.step 7) oneLineReset) (fun t => eventCount (fun e => e == .irqStat .lyc) t.events == 1) = true ∧
    goesTo (exec (.step 8) { oneLineReset with mode := .oamSearch })
      (fun t => eventCount (fun e => e == .irqStat .lyc) t.events == 1) = true := by
  refine ⟨by decide, by decide, by decide, by decide, by decide, by decide⟩

/-- ChunksFollowTheHblankEntries: the ticks that enter HBLANK and those beside them, on the first and the last visible line
and on a VBLANK line; a chunk with the display off under RunGated; and a STEP after which the line is still high. -/
theorem witness_chunks :
    [(250, 0), (251, 1), (252, 0), (65459, 1), (65915, 0)].map (fun p : Nat × Nat =>
      hblankEntries Config.defaults p.1 1 == p.2) = [true, true, true, true, true] ∧
    hblankEntries tiny 0 (framePeriod tiny) = 2 ∧
    goesTo (exec (.step 1) (vec .runGated 251 .pixelTransfer 0 0 0x11 true)) (fun t => t.events == [.hdmaChunk]) = true ∧
    goesTo (exec (.step 2) (vec .runGated 248 .pixelTransfer 0 0 0x11 true))
      (fun t => t.hdmaActive && t.cfg.variant == .cgb) = true := by decide

/-- OneSwapPerFramePeriod and FrameEmitsItsEvents: a ready state at its derived mode with the display on. -/
theorem witness_frame :
    (vec .freeze 456 .oamSearch 0xF 1 0x91 false).Ready ∧ ticking (vec .freeze 456 .oamSearch 0xF 1 0x91 false) = true ∧
    (vec .freeze 456 .oamSearch 0xF 1 0x91 false).lcdc.getLsbD 7 = true ∧
    (vec .freeze 456 .oamSearch 0xF 1 0x91 false).mode = modeOf Config.defaults 456 := by decide

/-- CompleteBufferIsStableUntilTheSwap: a render without a swap. -/
theorem witness_stable :
    Instr.step 1 ≠ .reset ∧
    goesTo (exec (.step 1) (vec .freeze 251 .pixelTransfer 0 0 0x91 false)) (fun t => t.events.all (fun e => !isSwap e)) = true := by
  decide

/-- BlockDoesNotDependOnCollaborators: two states that differ in the input line and a pixel only, both answering. -/
theorem witness_independent :
    SameFsm (vec .freeze 251 .pixelTransfer 0xF 0 0x91 true)
      { vec .freeze 251 .pixelTransfer 0xF 0 0x91 false with fb0 := [(3, 0x1234#16)], calls := 5 } ∧
    (∃ t, exec (.step 1) (vec .freeze 251 .pixelTransfer 0xF 0 0x91 true) = .next t) ∧
    (∃ t, exec (.step 1) { vec .freeze 251 .pixelTransfer 0xF 0 0x91 false with fb0 := [(3, 0x1234#16)], calls := 5 } =
      .next t) := by
  refine ⟨⟨rfl, rfl, rfl, rfl, rfl, rfl, rfl⟩, ⟨_, rfl⟩, ⟨_, rfl⟩⟩

end Sys2Proof.Tests
end

/-! PROOF. The configuration guard: what an invalid configuration refuses and a valid one never does (00_scope.md R9). -/

namespace Sys2Proof.Machine

/-- An invalid configuration is refused by RESET's guard (00_scope.md R9). -/
theorem underConfig_of_invalid {f : State → State} {s : State} (hv : validConfig s.cfg = false) :
    underConfig f s = .refused .badConfiguration := by
  simp [underConfig, hv]

/-- Every transaction refuses an invalid configuration, whether or not the state meets 10_state.md R36. -/
theorem exec_of_invalid (i : Instr) {s : State} (hv : validConfig s.cfg = false) :
    exec i s = .refused .badConfiguration := by
  rw [exec_eq]
  split
  · exact underConfig_of_invalid hv
  · exact transact_of_invalid hv

/-- Under a valid configuration RESET answers in every state, one that breaks 10_state.md R36 too. -/
theorem exec_reset_of_valid {s : State} (hv : validConfig s.cfg = true) :
    exec .reset s = .next (resetBlock (quiet s)) :=
  underConfig_of_valid hv

/-- Under a valid configuration every other transaction is the fault in a state that breaks 10_state.md R36. -/
theorem exec_of_broken {i : Instr} {s : State} (hi : i ≠ .reset) (hv : validConfig s.cfg = true)
    (hinv : invariantHolds s = false) : exec i s = .fault .invariantViolation := by
  rw [exec_eq, if_neg hi]
  exact transact_of_broken hv hinv

/-- A valid configuration is never refused: the outcome is an answer in a ready state and for RESET, else the fault. -/
theorem exec_ne_refused_of_valid (i : Instr) {s : State} (hv : validConfig s.cfg = true) (r : Refusal) :
    exec i s ≠ .refused r := by
  by_cases hi : i = .reset
  · subst hi
    simp [exec_reset_of_valid hv]
  · cases hinv : invariantHolds s with
    | true => simp [exec_of_ready i ⟨hv, hinv⟩]
    | false => simp [exec_of_broken hi hv hinv]

/-- Settles O24: R9's six inequalities are the guard `validConfig`, which every transaction tests first. -/
theorem invalidConfigurationIsRefused : Obligations.InvalidConfigurationIsRefused := by
  intro s i good
  have hgood : validConfig s.cfg = true ↔ good := by
    simp only [validConfig_iff, good, and_assoc]
  constructor
  · intro hbad
    exact exec_of_invalid i (Bool.eq_false_iff.mpr (mt hgood.mp hbad))
  · intro h
    exact exec_ne_refused_of_valid i (hgood.mpr h)

end Sys2Proof.Machine

/-! PROOF. The state's statements (10_state.md): the step runs the delivered word, every step keeps the invariant, each
register has its writers. First, the decoder reads back every well-formed transaction's word
(30_encoding.md R70 to R76), and the word delivered next is run next (20_memory.md R57). -/

namespace Sys2Proof

/-- The word of a RD (30_encoding.md R72). -/
theorem decode_accessWord_rd (p : Port) : decode (accessWord 0#2 p 0#8) = .ok (rdOf p) := by
  obtain ⟨hkind, hreserved, hport, hdata⟩ := accessWord_fields 0#2 p 0#8
  simp [decode, decodeRd, hkind, hreserved, hport, hdata, portOf_portNumber]

/-- The word of a WR (30_encoding.md R73). -/
theorem decode_accessWord_wr (p : Port) (data : Byte) : decode (accessWord 1#2 p data) = .ok (wrOf p data) := by
  obtain ⟨hkind, hreserved, hport, hdata⟩ := accessWord_fields 1#2 p data
  simp [decode, decodeWr, hkind, hreserved, hport, hdata, portOf_portNumber]

/-- The word of a STEP (30_encoding.md R74). -/
theorem decode_countWord_step (n : BitVec 30) : decode (2#2 ++ n) = .ok (.step n.toNat) := by
  obtain ⟨hkind, hcount⟩ := countWord_fields 2#2 n
  simp [decode, decodeStep, hkind, hcount]

/-- The decoder reads back the word of every well-formed transaction, with its operands (30_encoding.md R76). -/
theorem decode_encode {i : Instr} (h : i.wellFormed = true) : decode (encode i) = .ok i := by
  cases i with
  | rdLcdc => exact decode_accessWord_rd .lcdc
  | wrLcdc data => exact decode_accessWord_wr .lcdc data
  | rdStat => exact decode_accessWord_rd .stat
  | wrStat data => exact decode_accessWord_wr .stat data
  | rdLy => exact decode_accessWord_rd .ly
  | wrLy data => exact decode_accessWord_wr .ly data
  | rdLyc => exact decode_accessWord_rd .lyc
  | wrLyc data => exact decode_accessWord_wr .lyc data
  | step n =>
    have hn : n < 2 ^ 30 := of_decide_eq_true h
    have hw := decode_countWord_step (BitVec.ofNat 30 n)
    rwa [BitVec.toNat_ofNat, Nat.mod_eq_of_lt hn] at hw
  | reset => decide

/-- A transaction word is the word of its own opcode-table number (log entry 16). -/
theorem tableWord_toNat (w : TxWord) : tableWord 32 w.toNat = w := by
  rw [tableWord, Nat.mod_eq_of_lt w.isLt, BitVec.ofNat_toNat, BitVec.setWidth_eq]

end Sys2Proof

namespace Sys2Proof.Machine

/-- A step with the word of a transaction in front is that transaction on the state the word was delivered to. -/
theorem step_deliverNext {w : TxWord} {i : Instr} (hw : decode w = .ok i) (s : State) :
    step (deliverNext w s) = exec i s :=
  step_word (deliverNext_input w s) hw

/-- Settles O7: the cases of `takeWord`, and for the last clause the decoder's round trip. -/
theorem stepRunsTheDeliveredTransaction : Obligations.StepRunsTheDeliveredTransaction := by
  refine ⟨fun _ _ _ _ => step_word, fun _ => step_empty, fun _ _ _ => step_hdma, fun s i hi => ?_⟩
  rw [State.withFetchWord, tableWord_toNat]
  exact step_deliverNext (decode_encode hi) s

/-! ### The invariant: 10_state.md R36 and canonical framebuffers hold at reset and every step keeps them. -/

/-- 10_state.md R36, clause by clause. -/
theorem invariantHolds_iff (s : State) :
    invariantHolds s = true ↔
      s.cnt < framePeriod s.cfg ∧ (s.mode = modeOf s.cfg s.cnt ∨ s.cnt = 0 ∧ s.mode = .hblank) ∧
      (ticking s = true ∨ s.cnt = 0 ∧ s.mode = .hblank) := by
  simp [invariantHolds, and_assoc]

/-- The reset point, counter 0 in HBLANK, meets R36 whatever the display and the policy are. -/
theorem ready_of_resetPoint {s : State} (hv : validConfig s.cfg = true) (hcnt : s.cnt = 0) (hmode : s.mode = .hblank) :
    s.Ready := by
  refine ⟨hv, (invariantHolds_iff s).mpr ⟨?_, .inr ⟨hcnt, hmode⟩, .inr ⟨hcnt, hmode⟩⟩⟩
  rw [hcnt]
  exact framePeriod_pos hv

/-- Cleared framebuffers are canonical. -/
theorem fbsCanonical_of_clear {s : State} (h0 : s.fb0 = []) (h1 : s.fb1 = []) : s.FbsCanonical := by
  rw [State.FbsCanonical, h0, h1]
  exact ⟨rfl, rfl⟩

theorem inv_resetWith {c : Config} (hc : validConfig c = true) : (State.resetWith c).Inv :=
  ⟨ready_of_resetPoint hc rfl rfl, fbsCanonical_of_clear rfl rfl⟩

/-- RESET establishes the invariant in every state of a valid configuration (70_reset_and_hazards.md R200). -/
theorem inv_resetBlock {s : State} (hv : validConfig s.cfg = true) : (resetBlock s).Inv :=
  ⟨ready_of_resetPoint hv rfl rfl, fbsCanonical_of_clear rfl rfl⟩

/-- A stored LCDC byte that has the display on keeps the invariant: the last clause of R36 no longer binds. -/
theorem inv_setLcdc_on {data : Byte} (hd : displayEnable data = true) {s : State} (h : s.Inv) : (setLcdc data s).Inv := by
  obtain ⟨⟨hv, hi⟩, hfb⟩ := h
  obtain ⟨hcnt, hmode, -⟩ := (invariantHolds_iff s).mp hi
  have ht : ticking (setLcdc data s) = true := by simp [ticking, displayOn, hd]
  exact ⟨⟨hv, (invariantHolds_iff _).mpr ⟨hcnt, hmode, .inl ht⟩⟩, hfb⟩

/-- The display-off reset leads to the reset point, whatever LCDC is (40_timing_fsm.md R121). -/
theorem inv_displayOffReset {s : State} (hv : validConfig s.cfg = true) (hfb : s.FbsCanonical) :
    (displayOffReset s).Inv :=
  ⟨ready_of_resetPoint hv rfl rfl, hfb⟩

/-- WR LCDC with bit 7 set stores the byte (41_register_access.md R142). -/
theorem effect_wrLcdc_on {data : Byte} (hd : displayEnable data = true) (s : State) :
    effect (.wrLcdc data) s = setLcdc data s :=
  if_pos hd

/-- WR LCDC with bit 7 clear stores the byte and resets the timing state (41_register_access.md R142). -/
theorem effect_wrLcdc_off {data : Byte} (hd : displayEnable data = false) (s : State) :
    effect (.wrLcdc data) s = displayOffReset (setLcdc data s) :=
  if_neg (Bool.eq_false_iff.mp hd)

/-- Every transaction keeps the invariant. R36 reads none of the fields that a read, WR STAT, WR LY or WR LYC writes. -/
theorem inv_effect (i : Instr) {s : State} (h : s.Inv) : (effect i s).Inv := by
  cases i with
  | rdLcdc | rdStat | rdLy | rdLyc | wrStat _ | wrLy _ | wrLyc _ => exact h
  | wrLcdc data =>
    cases hd : displayEnable data with
    | true => rw [effect_wrLcdc_on hd]; exact inv_setLcdc_on hd h
    | false => rw [effect_wrLcdc_off hd]; exact inv_displayOffReset h.1.1 h.2
  | step n => exact inv_ticks h n
  | reset => exact inv_resetBlock h.1.1

/-- Settles O21, by the cases of a step: without a transaction the block stays, with one it is `inv_effect`. -/
theorem stepKeepsTheInvariant : Obligations.StepKeepsTheInvariant := by
  intro s t hs hstep
  rcases step_cases s with ⟨-, e⟩ | ⟨level, rest, -, e⟩ | ⟨w, rest, i, -, -, e⟩ | ⟨w, rest, err, -, -, e⟩
  · obtain rfl : quiet s = t := by simpa [e] using hstep
    exact hs
  · obtain rfl : quiet { s with input := rest, hdmaActive := level } = t := by simpa [e] using hstep
    exact hs
  · obtain ⟨-, -, rfl⟩ := exec_next (e.symm.trans hstep)
    exact inv_effect i hs
  · rw [e] at hstep
    cases hstep

/-- Settles O20: the reset state is at the reset point, with cleared framebuffers. -/
theorem resetMeetsTheInvariant : Obligations.ResetMeetsTheInvariant :=
  ⟨inv_resetWith (by decide), fun _ => inv_resetWith⟩

/-! ### What each transaction writes: the writers of the counter, the mode and every register (10_state.md R21 to R32). -/

/-- Settles O38: no register access but WR LCDC writes the counter or the mode, and WR LCDC only where bit 7 is clear. -/
theorem onlyTicksAndResetsMoveTheTimingState : Obligations.OnlyTicksAndResetsMoveTheTimingState := by
  intro i s t h hmoved
  obtain ⟨-, -, rfl⟩ := exec_next h
  cases i with
  | rdLcdc | rdStat | rdLy | rdLyc | wrStat _ | wrLy _ | wrLyc _ => simp [effect] at hmoved
  | wrLcdc data =>
    cases hd : displayEnable data with
    | true => simp [effect_wrLcdc_on hd] at hmoved
    | false => rw [effect_wrLcdc_off hd]; exact .inr (.inr ⟨data, rfl, hd, rfl, rfl⟩)
  | step n => exact .inl ⟨n, rfl⟩
  | reset => exact .inr (.inl ⟨rfl, rfl, rfl⟩)

/-- WR LCDC writes LCDC, with bit 7 clear the counter and the mode too, and no other field. -/
theorem effect_wrLcdc_eq (data : Byte) (s : State) :
    effect (.wrLcdc data) s =
      { s with
        lcdc := data
        cnt := if displayEnable data then s.cnt else 0
        mode := if displayEnable data then s.mode else .hblank } := by
  cases hd : displayEnable data with
  | true => exact effect_wrLcdc_on hd s
  | false => exact effect_wrLcdc_off hd s

/-- A swap is raised in every tick that changes `fb_sel` (40_timing_fsm.md R117). -/
theorem fbSel_tick (s : State) : (tick s).fbSel = s.fbSel ∨ ∃ e ∈ tickEvents s, isSwap e = true := by
  obtain ⟨-, -, -, hfb, -⟩ := tick_spec s
  by_cases hv : ticking s = true ∧ nextMode s ≠ s.mode ∧ nextMode s = .vblank
  · obtain ⟨ht, hm, hvblank⟩ := hv
    refine .inr ⟨.swap (otherFb s.fbSel), ?_, ?_⟩
    · rw [tickEvents, if_pos ⟨ht, hm⟩, hvblank]
      simp [entryEvents, advanced]
    · generalize otherFb s.fbSel = b
      revert b
      decide
  · exact .inl (hfb.trans (if_neg hv))

/-- A tick changes the input line at a chunk only (40_timing_fsm.md R104; log entry 10). -/
theorem hdmaActive_tick_of_no_chunk {s : State} (h : .hdmaChunk ∉ tickEvents s) : (tick s).hdmaActive = s.hdmaActive := by
  have hcount : eventCount (fun e => e == .hdmaChunk) (tickEvents s) = 0 := by
    rw [eventCount, List.countP_eq_zero]
    intro e he heq
    exact h (beq_iff_eq.mp heq ▸ he)
  simp [hdmaActive_tick, hcount]

/-- A field that each tick changes with an event of some kind only is changed by a run with such an event only. -/
theorem ticks_eq_or_event {α : Type} (f : State → α) (p : Event → Prop)
    (hp : ∀ s, f (tick s) = f s ∨ ∃ e ∈ tickEvents s, p e) (n : Nat) (s : State) :
    f (ticks n s) = f s ∨ ∃ e ∈ (ticks n s).events, p e := by
  refine ticks_induction (fun t => f t = f s ∨ ∃ e ∈ t.events, p e) (fun t ht => ?_) n s (.inl rfl)
  obtain ⟨-, -, -, -, hevents⟩ := tick_spec t
  simp only [hevents, List.mem_append]
  rcases ht with hsame | ⟨e, he, hpe⟩
  · rcases hp t with htick | ⟨e, he, hpe⟩
    · exact .inl (htick.trans hsame)
    · exact .inr ⟨e, .inr he, hpe⟩
  · exact .inr ⟨e, .inl he, hpe⟩

/-- No transaction writes the configuration or the input stream. -/
theorem effect_cfg_input (i : Instr) (s : State) : (effect i s).cfg = s.cfg ∧ (effect i s).input = s.input := by
  cases i with
  | rdLcdc | rdStat | rdLy | rdLyc | wrStat _ | wrLy _ | wrLyc _ | reset => exact ⟨rfl, rfl⟩
  | wrLcdc data => rw [effect_wrLcdc_eq]; exact ⟨rfl, rfl⟩
  | step n => exact ⟨(ticks_sameRegisters n s).cfg, (ticks_sameRegisters n s).input⟩

/-- The writers of LCDC (10_state.md R21). -/
theorem effect_lcdc (i : Instr) (s : State) :
    (effect i s).lcdc = s.lcdc ∨ i = .wrLcdc (effect i s).lcdc ∨ i = .reset := by
  cases i with
  | rdLcdc | rdStat | rdLy | rdLyc | wrStat _ | wrLy _ | wrLyc _ => exact .inl rfl
  | wrLcdc data => rw [effect_wrLcdc_eq]; exact .inr (.inl rfl)
  | step n => exact .inl (ticks_sameRegisters n s).lcdc
  | reset => exact .inr (.inr rfl)

/-- The writers of the status enables (10_state.md R22). -/
theorem effect_statIe (i : Instr) (s : State) :
    (effect i s).statIe = s.statIe ∨ (∃ d : Byte, i = .wrStat d ∧ (effect i s).statIe = enablesOf d) ∨ i = .reset := by
  cases i with
  | rdLcdc | rdStat | rdLy | rdLyc | wrLy _ | wrLyc _ => exact .inl rfl
  | wrLcdc data => rw [effect_wrLcdc_eq]; exact .inl rfl
  | wrStat data => exact .inr (.inl ⟨data, rfl, rfl⟩)
  | step n => exact .inl (ticks_sameRegisters n s).statIe
  | reset => exact .inr (.inr rfl)

/-- The writers of LYC (10_state.md R24). -/
theorem effect_lyc (i : Instr) (s : State) :
    (effect i s).lyc = s.lyc ∨ i = .wrLyc (effect i s).lyc ∨ i = .reset := by
  cases i with
  | rdLcdc | rdStat | rdLy | rdLyc | wrStat _ | wrLy _ => exact .inl rfl
  | wrLcdc data => rw [effect_wrLcdc_eq]; exact .inl rfl
  | wrLyc data => exact .inr (.inl rfl)
  | step n => exact .inl (ticks_sameRegisters n s).lyc
  | reset => exact .inr (.inr rfl)

/-- The writers of `fb_sel` (10_state.md R29). -/
theorem effect_fbSel (i : Instr) (s : State) :
    (effect i s).fbSel = s.fbSel ∨
      ((∃ n, i = .step n) ∧ ∃ e ∈ (effect i s).events, isSwap e = true) ∨ i = .reset := by
  cases i with
  | rdLcdc | rdStat | rdLy | rdLyc | wrStat _ | wrLy _ | wrLyc _ => exact .inl rfl
  | wrLcdc data => rw [effect_wrLcdc_eq]; exact .inl rfl
  | step n => exact (ticks_eq_or_event State.fbSel (isSwap · = true) fbSel_tick n s).imp_right fun h => .inl ⟨⟨n, rfl⟩, h⟩
  | reset => exact .inr (.inr rfl)

/-- The input line moves inside a STEP with a chunk only (log entries 10 and 11). -/
theorem effect_hdmaActive (i : Instr) (s : State) :
    (effect i s).hdmaActive = s.hdmaActive ∨ (∃ n, i = .step n) ∧ .hdmaChunk ∈ (effect i s).events := by
  cases i with
  | rdLcdc | rdStat | rdLy | rdLyc | wrStat _ | wrLy _ | wrLyc _ | reset => exact .inl rfl
  | wrLcdc data => rw [effect_wrLcdc_eq]; exact .inl rfl
  | step n =>
    have htick (t : State) : (tick t).hdmaActive = t.hdmaActive ∨ ∃ e ∈ tickEvents t, e = .hdmaChunk := by
      rw [exists_eq_right]
      exact (em _).symm.imp_left hdmaActive_tick_of_no_chunk
    refine (ticks_eq_or_event State.hdmaActive (· = .hdmaChunk) htick n s).imp_right ?_
    rintro ⟨_, he, rfl⟩
    exact ⟨⟨n, rfl⟩, he⟩

/-- Settles O39, register by register from the effect of each transaction. -/
theorem eachRegisterHasItsWriters : Obligations.EachRegisterHasItsWriters := by
  intro i s t h
  obtain ⟨-, -, rfl⟩ := exec_next h
  obtain ⟨hcfg, hinput⟩ := effect_cfg_input i (quiet s)
  exact ⟨hcfg, hinput, (effect_lcdc i _).resolve_left, (effect_statIe i _).resolve_left, (effect_lyc i _).resolve_left,
    (effect_fbSel i _).resolve_left, (effect_hdmaActive i _).resolve_left⟩

end Sys2Proof.Machine

/-! PROOF. The memory's statements (20_memory.md): a step consumes the oldest stimulus, and the complete framebuffer changes
with a swap or RESET only. -/

namespace Sys2Proof.Machine

/-! ### The stream (20_memory.md R57) -/

/-- A transaction that answers leaves the stream to the steps after it. -/
theorem exec_input {i : Instr} {s t : State} (h : exec i s = .next t) : t.input = s.input := by
  obtain ⟨-, -, rfl⟩ := exec_next h
  exact (effect_cfg_input i (quiet s)).2

/-- Settles O8, by the cases of a step: it takes the head of the stream itself, and no transaction touches the rest. -/
theorem stepsConsumeInArrivalOrder : Obligations.StepsConsumeInArrivalOrder := by
  intro s t hstep
  rcases step_cases s with ⟨hin, e⟩ | ⟨level, rest, hin, e⟩ | ⟨w, rest, i, hin, -, e⟩ | ⟨w, rest, err, -, -, e⟩
  · obtain rfl : quiet s = t := by simpa [e] using hstep
    simp [hin]
  · obtain rfl : quiet { s with input := rest, hdmaActive := level } = t := by simpa [e] using hstep
    simp [hin]
  · rw [exec_input (e.symm.trans hstep), hin, List.tail_cons]
  · rw [e] at hstep
    cases hstep

/-! ### The complete framebuffer (20_memory.md R58; 70_reset_and_hazards.md R210) -/

/-- The roles of the framebuffers and the content of the complete one. -/
def completeFb (s : State) : FbIndex × Fb := (s.fbSel, fb s (otherFb s.fbSel))

/-- The complete framebuffer and the configuration determine every pixel that the presentation layer sees. -/
theorem complete_pixels_eq {s t : State} (hcfg : t.cfg = s.cfg) (h : completeFb t = completeFb s) :
    t.fbSel = s.fbSel ∧ ∀ j, pixel t (1 - t.fbSel) j = pixel s (1 - s.fbSel) j := by
  obtain ⟨hsel, hfb⟩ := Prod.mk.inj h
  refine ⟨hsel, fun j => ?_⟩
  simp only [otherFb] at hfb
  simp only [pixel, hcfg, hfb]

/-- A tick without a swap writes no pixel of the complete framebuffer: a render goes to the in-progress one
(40_timing_fsm.md R113), and the clear of VBLANK entry comes with the swap (R117). -/
theorem completeFb_tick (s : State) : completeFb (tick s) = completeFb s ∨ ∃ e ∈ tickEvents s, isSwap e = true := by
  refine (fbSel_tick s).imp_left fun hsel => ?_
  obtain ⟨-, -, -, hswap, -⟩ := tick_spec s
  have hnovblank : ¬(ticking s = true ∧ nextMode s ≠ s.mode ∧ nextMode s = .vblank) := fun hv => by
    rw [if_pos hv, hsel] at hswap
    exact otherFb_ne s.fbSel hswap.symm
  have hfb : fb (tick s) (otherFb s.fbSel) = fb s (otherFb s.fbSel) := by
    rw [fb_tick]
    split
    next hentry =>
      rw [if_neg fun hrender => otherFb_ne s.fbSel hrender.2.2,
        if_neg fun hclear => hnovblank ⟨hentry.1, hentry.2, hclear.1⟩]
    next => rfl
  rw [completeFb, hsel, hfb, completeFb]

/-- The complete framebuffer is written by a swap or RESET only. -/
theorem effect_completeFb (i : Instr) (s : State) :
    completeFb (effect i s) = completeFb s ∨ (∃ e ∈ (effect i s).events, isSwap e = true) ∨ i = .reset := by
  cases i with
  | rdLcdc | rdStat | rdLy | rdLyc | wrStat _ | wrLy _ | wrLyc _ => exact .inl rfl
  | wrLcdc data => rw [effect_wrLcdc_eq]; exact .inl rfl
  | step n => exact (ticks_eq_or_event completeFb (isSwap · = true) completeFb_tick n s).imp_right .inl
  | reset => exact .inr (.inr rfl)

/-- Settles O47: the two writers of the complete framebuffer, a swap and RESET, are excluded. -/
theorem completeBufferIsStableUntilTheSwap : Obligations.CompleteBufferIsStableUntilTheSwap := by
  intro i s t hi h hquiet
  obtain ⟨-, -, rfl⟩ := exec_next h
  refine complete_pixels_eq (effect_cfg_input i (quiet s)).1 ?_
  rcases effect_completeFb i (quiet s) with hsame | ⟨e, he, hswap⟩ | hreset
  · exact hsame
  · exact absurd hswap (Bool.eq_false_iff.mp (hquiet e he))
  · exact absurd hreset hi

end Sys2Proof.Machine

/-! PROOF. The encoding's statements (30_encoding.md R70 to R78). One case analysis of the decoder, `decode_cases`, says
what each word is: the encoding of a well-formed transaction, or a word of R77 refused under its name. The opcode map
(R76) is then related to the decoder row by row. -/

namespace Sys2Proof

/-! ### The case analysis of the decoder (30_encoding.md R71 to R75, R77) -/

/-- A word with reserved bits set (30_encoding.md R77). -/
def HasReservedBits (w : TxWord) : Prop :=
  ((kindField w).toNat ≤ 1 ∧ reservedField w ≠ 0#14) ∨ ((kindField w).toNat = 0 ∧ dataField w ≠ 0#8) ∨
    ((kindField w).toNat = 3 ∧ countField w ≠ 0#30)

/-- A RD or WR word of a port that the block does not own (30_encoding.md R77). -/
def HasUnownedPort (w : TxWord) : Prop :=
  (kindField w).toNat ≤ 1 ∧ portField w ∉ [0x40#8, 0x41#8, 0x44#8, 0x45#8]

/-- The number of a register is an owned port (10_state.md R20). -/
theorem portNumber_mem (p : Port) : portNumber p ∈ [0x40#8, 0x41#8, 0x44#8, 0x45#8] := by
  cases p <;> decide

/-- The ports with no register are those the block does not own (10_state.md R20). -/
theorem portOf_eq_none_iff (b : Byte) : portOf b = none ↔ b ∉ [0x40#8, 0x41#8, 0x44#8, 0x45#8] := by
  have howned : ∀ q ∈ [0x40#8, 0x41#8, 0x44#8, 0x45#8], portOf q ≠ none := by decide
  constructor
  · exact fun h hb => howned b hb h
  · intro hb
    cases hport : portOf b with
    | none => rfl
    | some p => exact absurd (portNumber_of_portOf hport ▸ portNumber_mem p) hb

theorem encode_rdOf (p : Port) : encode (rdOf p) = accessWord 0#2 p 0#8 := by cases p <;> rfl

theorem encode_wrOf (p : Port) (data : Byte) : encode (wrOf p data) = accessWord 1#2 p data := by cases p <;> rfl

theorem wellFormed_rdOf (p : Port) : (rdOf p).wellFormed = true := by cases p <;> rfl

theorem wellFormed_wrOf (p : Port) (data : Byte) : (wrOf p data).wellFormed = true := by cases p <;> rfl

/-- A RD or WR word without reserved bits is the word of the register at its port (30_encoding.md R72, R73). -/
theorem eq_accessWord {w : TxWord} {p : Port} (hreserved : reservedField w = 0#14)
    (hport : portNumber p = portField w) : w = accessWord (kindField w) p (dataField w) := by
  rw [accessWord, hport, ← hreserved]
  exact word_of_access_fields w

/-- The word of a well-formed transaction is none of R77's refused words. -/
theorem encode_not_refused (i : Instr) : ¬HasReservedBits (encode i) ∧ ¬HasUnownedPort (encode i) := by
  have hrd (p : Port) : ¬HasReservedBits (accessWord 0#2 p 0#8) ∧ ¬HasUnownedPort (accessWord 0#2 p 0#8) := by
    obtain ⟨hkind, hreserved, hport, hdata⟩ := accessWord_fields 0#2 p 0#8
    simp [HasReservedBits, HasUnownedPort, hkind, hreserved, hport, hdata, -List.mem_cons, portNumber_mem]
  have hwr (p : Port) (data : Byte) :
      ¬HasReservedBits (accessWord 1#2 p data) ∧ ¬HasUnownedPort (accessWord 1#2 p data) := by
    obtain ⟨hkind, hreserved, hport, -⟩ := accessWord_fields 1#2 p data
    simp [HasReservedBits, HasUnownedPort, hkind, hreserved, hport, -List.mem_cons, portNumber_mem]
  cases i with
  | rdLcdc => exact hrd .lcdc
  | wrLcdc data => exact hwr .lcdc data
  | rdStat => exact hrd .stat
  | wrStat data => exact hwr .stat data
  | rdLy => exact hrd .ly
  | wrLy data => exact hwr .ly data
  | rdLyc => exact hrd .lyc
  | wrLyc data => exact hwr .lyc data
  | step n =>
    obtain ⟨hkind, -⟩ := countWord_fields 2#2 (BitVec.ofNat 30 n)
    simp [encode, HasReservedBits, HasUnownedPort, hkind]
  | reset =>
    obtain ⟨hkind, hcount⟩ := countWord_fields 3#2 0#30
    simp only [encode, HasReservedBits, HasUnownedPort, hkind, hcount]
    decide

/-- Every STEP word is accepted (30_encoding.md R74, R77). -/
theorem decode_of_kind_step {w : TxWord} (h : kindField w = 2#2) : decode w = .ok (.step (countField w).toNat) := by
  simp [decode, decodeStep, h]

/-- What a word is: the encoding of a well-formed transaction, or refused under a name of R77 that fits it. -/
theorem decode_cases (w : TxWord) :
    (∃ i : Instr, i.wellFormed = true ∧ encode i = w) ∨
    (decode w = .error .reservedBits ∧ HasReservedBits w) ∨
    (decode w = .error .unownedPort ∧ HasUnownedPort w) := by
  rcases kind_cases (kindField w) with hkind | hkind | hkind | hkind
  · by_cases hbits : reservedField w = 0#14 ∧ dataField w = 0#8
    · obtain ⟨hreserved, hdata⟩ := hbits
      cases hport : portOf (portField w) with
      | some p =>
        have hw := eq_accessWord hreserved (portNumber_of_portOf hport)
        rw [hkind, hdata, ← encode_rdOf] at hw
        exact .inl ⟨rdOf p, wellFormed_rdOf p, hw.symm⟩
      | none =>
        refine .inr (.inr ⟨by simp [decode, decodeRd, hkind, hreserved, hdata, hport], ?_⟩)
        exact ⟨by simp [hkind], (portOf_eq_none_iff _).mp hport⟩
    · refine .inr (.inl ⟨by simp [decode, decodeRd, hkind, hbits], ?_⟩)
      rcases not_and_or.mp hbits with hreserved | hdata
      · exact .inl ⟨by simp [hkind], hreserved⟩
      · exact .inr (.inl ⟨by simp [hkind], hdata⟩)
  · by_cases hreserved : reservedField w = 0#14
    · cases hport : portOf (portField w) with
      | some p =>
        have hw := eq_accessWord hreserved (portNumber_of_portOf hport)
        rw [hkind, ← encode_wrOf] at hw
        exact .inl ⟨wrOf p (dataField w), wellFormed_wrOf p _, hw.symm⟩
      | none =>
        refine .inr (.inr ⟨by simp [decode, decodeWr, hkind, hreserved, hport], ?_⟩)
        exact ⟨by simp [hkind], (portOf_eq_none_iff _).mp hport⟩
    · exact .inr (.inl ⟨by simp [decode, decodeWr, hkind, hreserved], .inl ⟨by simp [hkind], hreserved⟩⟩)
  · refine .inl ⟨.step (countField w).toNat, decide_eq_true (countField w).isLt, ?_⟩
    rw [encode, BitVec.ofNat_toNat, BitVec.setWidth_eq, ← hkind]
    exact (word_of_count_fields w).symm
  · by_cases hcount : countField w = 0#30
    · refine .inl ⟨.reset, rfl, ?_⟩
      rw [encode, ← hkind, ← hcount]
      exact (word_of_count_fields w).symm
    · exact .inr (.inl ⟨by simp [decode, decodeReset, hkind, hcount], .inr (.inr ⟨by simp [hkind], hcount⟩)⟩)

/-- The decoder accepts the words of the well-formed transactions, each as its own transaction. -/
theorem decode_eq_ok_iff (w : TxWord) (i : Instr) : decode w = .ok i ↔ i.wellFormed = true ∧ encode i = w := by
  constructor
  · intro h
    rcases decode_cases w with ⟨j, hj, rfl⟩ | ⟨herr, -⟩ | ⟨herr, -⟩
    · rw [decode_encode hj] at h
      cases h
      exact ⟨hj, rfl⟩
    all_goals
      rw [herr] at h
      cases h
  · rintro ⟨hi, rfl⟩
    exact decode_encode hi

/-- A word is refused exactly if it is one of R77's. -/
theorem decode_error_iff (w : TxWord) : (∃ e, decode w = .error e) ↔ HasReservedBits w ∨ HasUnownedPort w := by
  rcases decode_cases w with ⟨i, hi, rfl⟩ | ⟨herr, hbits⟩ | ⟨herr, hport⟩
  · obtain ⟨hbits, hport⟩ := encode_not_refused i
    simp [decode_encode hi, hbits, hport]
  · exact iff_of_true ⟨_, herr⟩ (.inl hbits)
  · exact iff_of_true ⟨_, herr⟩ (.inr hport)

/-- The name under which a word is refused fits it (30_encoding.md R77). -/
theorem decode_error_name (w : TxWord) :
    (decode w = .error .reservedBits → HasReservedBits w) ∧ (decode w = .error .unownedPort → HasUnownedPort w) := by
  rcases decode_cases w with ⟨i, hi, rfl⟩ | ⟨herr, hbits⟩ | ⟨herr, hport⟩
  · simp [decode_encode hi]
  · simp [herr, hbits]
  · simp [herr, hport]

/-- Settles O1: the round trip, transaction by transaction. -/
theorem decodeEncodeRoundTrip : Obligations.DecodeEncodeRoundTrip := fun _ => decode_encode

/-- Settles O2: the decoder accepts only what the encoder makes. -/
theorem decodedWordIsTheOnlyEncoding : Obligations.DecodedWordIsTheOnlyEncoding :=
  fun w i => (decode_eq_ok_iff w i).mp

/-- Settles O4: the case analysis of the decoder, and the step refuses a word before it reads the state. -/
theorem refusedWordsAreNamed : Obligations.RefusedWordsAreNamed := by
  intro w kind reserved unowned
  obtain ⟨hreserved, hunowned⟩ := decode_error_name w
  refine ⟨hreserved, hunowned, decode_error_iff w, ?_, ?_⟩
  · exact fun hkind => decode_of_kind_step (BitVec.eq_of_toNat_eq hkind)
  · exact fun s rest hs => ⟨Machine.step_refused hs, Machine.step_refused hs⟩

/-- Settles O5: each word is the word of its fields, so the decoder reads it back. -/
theorem wordsOfTheVectorsDecode : Obligations.WordsOfTheVectorsDecode :=
  ⟨decode_accessWord_rd .lcdc, decode_accessWord_wr .lcdc 0x11#8, decode_accessWord_rd .stat,
    decode_accessWord_wr .stat 0xFF#8, decode_accessWord_rd .ly, decode_accessWord_wr .ly 0x50#8,
    decode_accessWord_rd .lyc, decode_accessWord_wr .lyc 0x0A#8, decode_countWord_step 70224#30,
    decode_encode (i := .reset) rfl⟩

/-! ### The opcode map (30_encoding.md R76) -/

/-- The word of every transaction matches a row of its mnemonic. -/
theorem rowAccepts (i : Instr) : Laws.RowAccepts.Statement i := by
  cases i with
  | rdLcdc => exact Laws.RowAccepts.rdLcdc
  | wrLcdc data => exact Laws.RowAccepts.wrLcdc data
  | rdStat => exact Laws.RowAccepts.rdStat
  | wrStat data => exact Laws.RowAccepts.wrStat data
  | rdLy => exact Laws.RowAccepts.rdLy
  | wrLy data => exact Laws.RowAccepts.wrLy data
  | rdLyc => exact Laws.RowAccepts.rdLyc
  | wrLyc data => exact Laws.RowAccepts.wrLyc data
  | step n => exact Laws.RowAccepts.step n
  | reset => exact Laws.RowAccepts.reset

/-- The rows of the map by kind: the mask of a RD or RESET row keeps the whole word, that of a WR row all but the data,
that of the STEP row the kind alone. -/
theorem opcodeRows_cases {r : OpcodeRow} (h : r ∈ opcodeRows) :
    (∃ p, r = ⟨mnemonic (rdOf p), accessWord 0#2 p 0#8, BitVec.allOnes 32⟩) ∨
    (∃ p, r = ⟨mnemonic (wrOf p 0#8), accessWord 1#2 p 0#8, 0xFFFFFF00#32⟩) ∨
    r = ⟨mnemonic (.step 0), 2#2 ++ 0#30, 0xC0000000#32⟩ ∨
    r = ⟨mnemonic .reset, encode .reset, BitVec.allOnes 32⟩ := by
  simp only [opcodeRows, List.mem_cons, List.not_mem_nil, or_false] at h
  rcases h with rfl | rfl | rfl | rfl | rfl | rfl | rfl | rfl | rfl | rfl
  · exact .inl ⟨.lcdc, rfl⟩
  · exact .inr (.inl ⟨.lcdc, rfl⟩)
  · exact .inl ⟨.stat, rfl⟩
  · exact .inr (.inl ⟨.stat, rfl⟩)
  · exact .inl ⟨.ly, rfl⟩
  · exact .inr (.inl ⟨.ly, rfl⟩)
  · exact .inl ⟨.lyc, rfl⟩
  · exact .inr (.inl ⟨.lyc, rfl⟩)
  · exact .inr (.inr (.inl rfl))
  · exact .inr (.inr (.inr rfl))

/-- The mnemonic of a WR does not depend on its data. -/
theorem mnemonic_wrOf (p : Port) (data : Byte) : mnemonic (wrOf p data) = mnemonic (wrOf p 0#8) := by
  cases p <;> rfl

/-- A word that a WR row matches is a word of that WR: the mask drops the data field alone. -/
theorem eq_accessWord_of_masked {w : TxWord} {p : Port} (h : w &&& 0xFFFFFF00#32 = accessWord 1#2 p 0#8) :
    w = accessWord 1#2 p (dataField w) := by
  obtain ⟨hkind, hreserved, hport, -⟩ := accessWord_fields 1#2 p 0#8
  rw [← h] at hkind hreserved hport
  have hmaskKind : (0xFFFFFF00#32).extractLsb' 30 2 = BitVec.allOnes 2 := by decide
  have hmaskReserved : (0xFFFFFF00#32).extractLsb' 16 14 = BitVec.allOnes 14 := by decide
  have hmaskPort : (0xFFFFFF00#32).extractLsb' 8 8 = BitVec.allOnes 8 := by decide
  rw [kindField, BitVec.extractLsb'_and, hmaskKind, BitVec.and_allOnes] at hkind
  rw [reservedField, BitVec.extractLsb'_and, hmaskReserved, BitVec.and_allOnes] at hreserved
  rw [portField, BitVec.extractLsb'_and, hmaskPort, BitVec.and_allOnes] at hport
  have hw := eq_accessWord hreserved hport.symm
  rwa [kindField, hkind] at hw

/-- A word that the STEP row matches has the kind of STEP: the mask keeps the kind alone. -/
theorem kindField_of_masked {w : TxWord} (h : w &&& 0xC0000000#32 = 2#2 ++ 0#30) : kindField w = 2#2 := by
  have hkind : kindField (w &&& 0xC0000000#32) = 2#2 := h ▸ (countWord_fields 2#2 0#30).1
  have hmaskKind : (0xC0000000#32).extractLsb' 30 2 = BitVec.allOnes 2 := by decide
  rwa [kindField, BitVec.extractLsb'_and, hmaskKind, BitVec.and_allOnes] at hkind

/-- A word that a row matches decodes to a transaction of the row's mnemonic. -/
theorem decode_of_row {w : TxWord} {r : OpcodeRow} (hr : r ∈ opcodeRows) (h : w &&& r.mask = r.pattern) :
    ∃ i, decode w = .ok i ∧ r.mnemonic = mnemonic i := by
  rcases opcodeRows_cases hr with ⟨p, rfl⟩ | ⟨p, rfl⟩ | rfl | rfl
  · rw [BitVec.and_allOnes] at h
    exact ⟨rdOf p, h ▸ decode_accessWord_rd p, rfl⟩
  · have hi := decode_accessWord_wr p (dataField w)
    rw [← eq_accessWord_of_masked h] at hi
    exact ⟨wrOf p (dataField w), hi, (mnemonic_wrOf p _).symm⟩
  · exact ⟨_, decode_of_kind_step (kindField_of_masked h), rfl⟩
  · rw [BitVec.and_allOnes] at h
    exact ⟨.reset, h ▸ decode_encode rfl, rfl⟩

/-- No two rows of the map have one mnemonic. -/
theorem opcodeRow_eq_of_mnemonic :
    ∀ r ∈ opcodeRows, ∀ q ∈ opcodeRows, r.mnemonic = q.mnemonic → r = q := by decide

/-- Settles O3: a matching row and the decoder agree on the transaction, so the mnemonic fixes the row. -/
theorem decoderAcceptsTheOpcodeMap : Obligations.DecoderAcceptsTheOpcodeMap := by
  refine ⟨fun w => ⟨?_, ?_⟩, ?_, ?_⟩
  · rintro ⟨i, hi⟩
    obtain ⟨-, rfl⟩ := (decode_eq_ok_iff w i).mp hi
    obtain ⟨r, hr, -, haccepts⟩ := rowAccepts i
    exact ⟨r, hr, eq_of_beq haccepts⟩
  · rintro ⟨r, hr, h⟩
    obtain ⟨i, hi, -⟩ := decode_of_row hr h
    exact ⟨i, hi⟩
  · intro w r hr q hq hwr hwq
    obtain ⟨i, hi, hri⟩ := decode_of_row hr hwr
    obtain ⟨j, hj, hqj⟩ := decode_of_row hq hwq
    have hij : i = j := Except.ok.inj (hi.symm.trans hj)
    exact opcodeRow_eq_of_mnemonic r hr q hq (by rw [hri, hqj, hij])
  · intro w i r hr hi h
    obtain ⟨j, hj, hrj⟩ := decode_of_row hr h
    have hij : i = j := Except.ok.inj (hi.symm.trans hj)
    rw [hrj, hij]

/-! ### The assembler (30_encoding.md R78) -/

/-- The STEP of a count that fits its field is well formed (30_encoding.md R74). -/
theorem wellFormed_of_boundedStep {n : Nat} {i : Instr} (h : (if n < 2 ^ 30 then some (Instr.step n) else none) = some i) :
    i.wellFormed = true := by
  split at h
  next hn =>
    cases h
    exact decide_eq_true hn
  next => cases h

/-- An assembler line stands for a well-formed transaction only. -/
theorem wellFormed_of_assemble {c : Config} {l : AsmLine} {i : Instr} (h : assemble c l = some i) :
    i.wellFormed = true := by
  cases l with
  | rd port =>
    obtain ⟨p, -, rfl⟩ := Option.map_eq_some_iff.mp h
    exact wellFormed_rdOf p
  | wr port data =>
    obtain ⟨p, -, rfl⟩ := Option.map_eq_some_iff.mp h
    exact wellFormed_wrOf p data
  | step n => exact wellFormed_of_boundedStep h
  | line => exact wellFormed_of_boundedStep h
  | frame => exact wellFormed_of_boundedStep h
  | reset | nop | lcdOff data | lcdOn data =>
    cases h
    rfl

/-- LCD_OFF's byte: bit 7 cleared, the others kept (30_encoding.md R78). -/
theorem and_0x7F_bits (d : Byte) :
    (d &&& 0x7F#8).getLsbD 7 = false ∧ (d &&& 0x7F#8).extractLsb' 0 7 = d.extractLsb' 0 7 := by
  have hlow : (0x7F#8).extractLsb' 0 7 = BitVec.allOnes 7 := by decide
  constructor
  · rw [BitVec.getLsbD_and, show (0x7F#8).getLsbD 7 = false from rfl, Bool.and_false]
  · rw [BitVec.extractLsb'_and, hlow, BitVec.and_allOnes]

/-- LCD_ON's byte: bit 7 set, the others kept (30_encoding.md R78). -/
theorem or_0x80_bits (d : Byte) :
    (d ||| 0x80#8).getLsbD 7 = true ∧ (d ||| 0x80#8).extractLsb' 0 7 = d.extractLsb' 0 7 := by
  have hlow : (0x80#8).extractLsb' 0 7 = 0#7 := by decide
  constructor
  · rw [BitVec.getLsbD_or, show (0x80#8).getLsbD 7 = true from rfl, Bool.or_true]
  · rw [BitVec.extractLsb'_or, hlow, BitVec.or_zero]

/-- Settles O6: each line is its transaction by `assemble`, and a well-formed one's word decodes to it. -/
theorem assemblerLinesAreTransactions : Obligations.AssemblerLinesAreTransactions := by
  refine ⟨?_, ?_, fun c b d => ⟨?_, ?_⟩, fun _ _ => rfl, fun _ => ⟨rfl, rfl, rfl, rfl⟩, ?_⟩
  · exact fun c l i h => decode_encode (wellFormed_of_assemble h)
  · exact fun _ _ => ⟨rfl, rfl, rfl, rfl, rfl, rfl, rfl, rfl⟩
  · rintro p rfl
    cases p <;> exact ⟨rfl, rfl⟩
  · intro hb
    have hport : portOf b = none := (portOf_eq_none_iff b).mpr hb
    simp [assemble, asmPort, hport]
  · exact fun c d => ⟨⟨_, rfl, and_0x7F_bits d⟩, ⟨_, rfl, or_0x80_bits d⟩⟩

end Sys2Proof

/-! PROOF. The timing machine's statements (40_timing_fsm.md). R104's frame comes first: two runs whose states agree on
the block are followed transaction by transaction. Then the table of R102 as a predicate on counter values, each mode entry
as one tick, STEP as a run of ticks, and the counts over a run: an event is raised by the entry into its own mode only
(`homeMode`), so a kind's count is a sum of weights over the table's entries that the counter passes. -/

namespace Sys2Proof.Machine

/-! ### Independence of the collaborators (R104) -/

/-- The events of the block itself: all but the chunk triggers, which follow the input line. -/
def blockEvents (es : List Event) : List Event := es.filter fun e => !(e == .hdmaChunk)

@[simp] theorem blockEvents_append (es fs : List Event) : blockEvents (es ++ fs) = blockEvents es ++ blockEvents fs :=
  List.filter_append es fs

/-- Two states agree on the block and on its outputs. -/
def SameBlock (s t : State) : Prop :=
  SameFsm s t ∧ t.result = s.result ∧ blockEvents t.events = blockEvents s.events

/-- States that agree on the block differ in the fields of the collaborators, the stream and the outputs only. -/
theorem SameFsm.eq {s t : State} (h : SameFsm s t) :
    t = { s with fb0 := t.fb0, fb1 := t.fb1, hdmaActive := t.hdmaActive, input := t.input, events := t.events,
                 result := t.result, calls := t.calls } := by
  obtain ⟨hcfg, hlcdc, hstatIe, hlyc, hcnt, hmode, hfbSel⟩ := h
  rw [← hcfg, ← hlcdc, ← hstatIe, ← hlyc, ← hcnt, ← hmode, ← hfbSel]

/-- The entry into a mode raises the same block events in states that agree on the block: only the chunk trigger reads
the input line (R116). -/
theorem blockEvents_entryEvents (m : Mode) {s t : State} (h : SameFsm s t) :
    blockEvents (entryEvents m t) = blockEvents (entryEvents m s) := by
  rw [h.eq]
  cases m with
  | hblank =>
    have hchunk (b : Bool) : blockEvents (if b = true then [.hdmaChunk] else []) = [] := by cases b <;> rfl
    simp only [entryEvents, blockEvents_append, hchunk]
    rfl
  | vblank | oamSearch | pixelTransfer => rfl

/-- A tick raises the same block events in states that agree on the block. -/
theorem blockEvents_tickEvents {s t : State} (h : SameFsm s t) :
    blockEvents (tickEvents t) = blockEvents (tickEvents s) := by
  have hticking : ticking t = ticking s := by rw [h.eq]; rfl
  have hnext : nextMode t = nextMode s := by rw [h.eq]; rfl
  have hmode : t.mode = s.mode := by rw [h.eq]
  have hadvanced : SameFsm (advanced s) (advanced t) := by
    rw [h.eq]; exact ⟨rfl, rfl, rfl, rfl, rfl, rfl, rfl⟩
  simp only [tickEvents, hticking, hnext, hmode]
  split
  · exact blockEvents_entryEvents _ hadvanced
  · rfl

/-- A tick keeps the agreement: counter, mode and `fb_sel` follow from the block's own fields (R110). -/
theorem sameFsm_tick {s t : State} (h : SameFsm s t) : SameFsm (tick s) (tick t) := by
  have hticking : ticking t = ticking s := by rw [h.eq]; rfl
  have hnext : nextMode t = nextMode s := by rw [h.eq]; rfl
  obtain ⟨hs, hscnt, hsmode, hsfbSel, -⟩ := tick_spec s
  obtain ⟨ht, htcnt, htmode, htfbSel, -⟩ := tick_spec t
  obtain ⟨hcfg, hlcdc, hstatIe, hlyc, hcnt, hmode, hfbSel⟩ := h
  refine ⟨?_, ?_, ?_, ?_, ?_, ?_, ?_⟩
  · rw [ht.cfg, hs.cfg, hcfg]
  · rw [ht.lcdc, hs.lcdc, hlcdc]
  · rw [ht.statIe, hs.statIe, hstatIe]
  · rw [ht.lyc, hs.lyc, hlyc]
  · rw [htcnt, hscnt, hticking, hcfg, hcnt]
  · rw [htmode, hsmode, hticking, hnext, hmode]
  · rw [htfbSel, hsfbSel, hticking, hnext, hmode, hfbSel]

/-- A tick keeps the agreement on the outputs too. -/
theorem sameBlock_tick {s t : State} (h : SameBlock s t) : SameBlock (tick s) (tick t) := by
  obtain ⟨hfsm, hresult, hevents⟩ := h
  obtain ⟨hs, -, -, -, hsevents⟩ := tick_spec s
  obtain ⟨ht, -, -, -, htevents⟩ := tick_spec t
  refine ⟨sameFsm_tick hfsm, ?_, ?_⟩
  · rw [ht.result, hs.result, hresult]
  · rw [htevents, hsevents, blockEvents_append, blockEvents_append, hevents, blockEvents_tickEvents hfsm]

/-- So does a run of ticks. -/
theorem sameBlock_ticks (n : Nat) {s t : State} (h : SameBlock s t) : SameBlock (ticks n s) (ticks n t) := by
  induction n generalizing s t with
  | zero => exact h
  | succ k ih => exact ih (sameBlock_tick h)

/-- A transaction begins with the same outputs in every state. -/
theorem sameBlock_quiet {s t : State} (h : SameFsm s t) : SameBlock (quiet s) (quiet t) := ⟨h, rfl, rfl⟩

/-- Every transaction keeps the agreement of two states on the block, and answers alike. -/
theorem sameBlock_effect (i : Instr) {s t : State} (h : SameBlock s t) : SameBlock (effect i s) (effect i t) := by
  cases i with
  | step n => exact sameBlock_ticks n h
  | wrLcdc data =>
    obtain ⟨hfsm, hresult, hevents⟩ := h
    rw [hfsm.eq, effect_wrLcdc_eq, effect_wrLcdc_eq]
    exact ⟨⟨rfl, rfl, rfl, rfl, rfl, rfl, rfl⟩, hresult, hevents⟩
  | rdLcdc | rdStat | rdLy | rdLyc =>
    obtain ⟨hfsm, -, hevents⟩ := h
    rw [hfsm.eq]
    exact ⟨⟨rfl, rfl, rfl, rfl, rfl, rfl, rfl⟩, rfl, hevents⟩
  | wrStat _ | wrLy _ | wrLyc _ | reset =>
    obtain ⟨hfsm, hresult, hevents⟩ := h
    rw [hfsm.eq]
    exact ⟨⟨rfl, rfl, rfl, rfl, rfl, rfl, rfl⟩, hresult, hevents⟩

/-- Settles O49: the agreement that `SameFsm` states is extended to the outputs, and every transaction keeps it. -/
theorem blockDoesNotDependOnCollaborators : Obligations.BlockDoesNotDependOnCollaborators := by
  intro i s t s' t' h hs hs'
  obtain ⟨-, -, rfl⟩ := exec_next hs
  obtain ⟨-, -, rfl⟩ := exec_next hs'
  exact sameBlock_effect i (sameBlock_quiet h)

/-! ### The derived mode and the table of its changes (R101, R102) -/

section Table

variable {c : Config} (hc : validConfig c = true)

theorem modeOf_eq_vblank_iff (n : Nat) : modeOf c n = .vblank ↔ c.visible ≤ lyOf c n := by
  unfold modeOf
  split_ifs <;> simp_all

theorem modeOf_eq_oamSearch_iff (n : Nat) :
    modeOf c n = .oamSearch ↔ lyOf c n < c.visible ∧ dotOf c n < c.oamEnd := by
  unfold modeOf
  split_ifs <;> simp_all

theorem modeOf_eq_pixelTransfer_iff (n : Nat) :
    modeOf c n = .pixelTransfer ↔ lyOf c n < c.visible ∧ c.oamEnd ≤ dotOf c n ∧ dotOf c n < c.xferEnd := by
  unfold modeOf
  split_ifs <;> simp_all

include hc

theorem modeOf_eq_hblank_iff (n : Nat) : modeOf c n = .hblank ↔ lyOf c n < c.visible ∧ c.xferEnd ≤ dotOf c n := by
  have := (validConfig_iff c).mp hc
  unfold modeOf
  split_ifs <;> simp <;> omega

/-- One tick advances the offset within the line, or goes to offset 0 of the next line, line 0 after the last. -/
theorem nextCount_cases {n : Nat} (hn : n < framePeriod c) :
    (lyOf c (nextCount c n) = lyOf c n ∧ dotOf c (nextCount c n) = dotOf c n + 1) ∨
    (dotOf c n + 1 = c.linePeriod ∧ dotOf c (nextCount c n) = 0 ∧
      (lyOf c (nextCount c n) = lyOf c n + 1 ∨ lyOf c n + 1 = c.lines ∧ lyOf c (nextCount c n) = 0)) := by
  have hline := lyOf_lt_lines hc n
  have hdot := dotOf_lt hc n
  have hpos := linePeriod_pos hc
  have hn' := line_dot_eq hn
  by_cases hlast : dotOf c n + 1 < c.linePeriod
  · left
    have hnext := nextCount_line_dot hline hlast
    rw [hn'] at hnext
    rw [hnext]
    exact ⟨lyOf_line_dot hc hline hlast, dotOf_line_dot hlast⟩
  · right
    have hstart : n + 1 = (lyOf c n + 1) * c.linePeriod + 0 := by rw [Nat.add_mul, Nat.one_mul]; omega
    refine ⟨by omega, ?_, ?_⟩
    · rw [nextCount, dotOf_mod, hstart]
      exact dotOf_line_dot hpos
    · by_cases hwrap : lyOf c n + 1 < c.lines
      · left
        rw [nextCount, lyOf_mod, hstart]
        exact lyOf_line_dot hc hwrap hpos
      · right
        have hframe : n + 1 = framePeriod c := by
          rw [hstart, framePeriod, show lyOf c n + 1 = c.lines by omega, Nat.mul_comm, Nat.add_zero]
        exact ⟨by omega, by rw [nextCount_wrap hframe]; simp [lyOf]⟩

omit hc

/-- The lines on which a mode is entered (R102). -/
def entryLine (c : Config) (m : Mode) (line : Nat) : Bool :=
  match m with
  | .vblank => line == c.visible
  | .hblank => decide (line < c.visible)
  | .oamSearch => decide (line < c.visible)
  | .pixelTransfer => decide (line < c.visible)

/-- The offset at which a mode is entered (R102). -/
def entryDot (c : Config) (m : Mode) : Nat :=
  match m with
  | .hblank => c.xferEnd
  | .vblank => 0
  | .oamSearch => 0
  | .pixelTransfer => c.oamEnd

/-- The table of R102: whether the tick that reaches a counter value enters a mode. -/
def entersAt (c : Config) (m : Mode) (count : Nat) : Bool :=
  entryLine c m (lyOf c count) && dotOf c count == entryDot c m

include hc

/-- Every entry lies inside its line. -/
theorem entryDot_lt (m : Mode) : entryDot c m < c.linePeriod := by
  have := (validConfig_iff c).mp hc
  cases m <;> simp only [entryDot] <;> omega

/-- The derived mode turns to each mode exactly at its counter values in the table (R102). -/
theorem modeOf_enters_iff (m : Mode) {n : Nat} (hn : n < framePeriod c) :
    modeOf c (nextCount c n) = m ∧ modeOf c n ≠ m ↔ entersAt c m (nextCount c n) = true := by
  have hv := (validConfig_iff c).mp hc
  have hline := lyOf_lt_lines hc n
  have hdot := dotOf_lt hc n
  have hnext := nextCount_cases hc hn
  simp only [ne_eq, entersAt, Bool.and_eq_true, beq_iff_eq]
  cases m with
  | hblank => simp only [modeOf_eq_hblank_iff hc, entryLine, entryDot, decide_eq_true_eq]; omega
  | vblank => simp only [modeOf_eq_vblank_iff, entryLine, entryDot, beq_iff_eq]; omega
  | oamSearch => simp only [modeOf_eq_oamSearch_iff, entryLine, entryDot, decide_eq_true_eq]; omega
  | pixelTransfer => simp only [modeOf_eq_pixelTransfer_iff, entryLine, entryDot, decide_eq_true_eq]; omega

/-- A counter value in range is at its line and offset and at no other. -/
theorem eq_line_dot_iff {n line dot : Nat} (hn : n < framePeriod c) (hl : line < c.lines) (hd : dot < c.linePeriod) :
    n = line * c.linePeriod + dot ↔ lyOf c n = line ∧ dotOf c n = dot := by
  constructor
  · rintro rfl
    exact ⟨lyOf_line_dot hc hl hd, dotOf_line_dot hd⟩
  · rintro ⟨rfl, rfl⟩
    exact (line_dot_eq hn).symm

/-- The table by line and offset, for a count in range. -/
theorem entersAt_iff (m : Mode) {n : Nat} (hn : n < framePeriod c) :
    entersAt c m n = true ↔ ∃ line, entryLine c m line = true ∧ n = line * c.linePeriod + entryDot c m := by
  have hv := (validConfig_iff c).mp hc
  rw [entersAt, Bool.and_eq_true, beq_iff_eq]
  constructor
  · rintro ⟨hline, hdot⟩
    exact ⟨lyOf c n, hline, by rw [← hdot, line_dot_eq hn]⟩
  · rintro ⟨line, hline, hn'⟩
    have hl : line < c.lines := by
      cases m <;> simp only [entryLine, decide_eq_true_eq, beq_iff_eq] at hline <;> omega
    obtain ⟨rfl, hdot⟩ := (eq_line_dot_iff hc hn hl (entryDot_lt hc m)).mp hn'
    exact ⟨hline, hdot⟩

end Table

/-- Settles O25: the line and the offset of `line * P_LINE_PERIOD + dot` are `line` and `dot`. -/
theorem modeFollowsLineAndOffset : Obligations.ModeFollowsLineAndOffset := by
  intro c line dot hc hl hd
  rw [modeOf, lyOf_line_dot hc hl hd, dotOf_line_dot hd]

/-- Settles O26: a change is an entry into the new mode, and the table says where that mode is entered. -/
theorem modeChangesExactlyAtTheTabledCounts : Obligations.ModeChangesExactlyAtTheTabledCounts := by
  intro c n hc hn
  have hiff : modeOf c (nextCount c n) ≠ modeOf c n ↔ ∃ line, entryLine c (modeOf c (nextCount c n)) line = true ∧
      nextCount c n = line * c.linePeriod + entryDot c (modeOf c (nextCount c n)) := by
    rw [← entersAt_iff hc _ (nextCount_lt hc n), ← modeOf_enters_iff hc _ hn, and_iff_right rfl, ne_comm]
  rw [hiff]
  cases modeOf c (nextCount c n) <;> simp [entryLine, entryDot]

/-! ### One tick (R110 to R117) -/

/-- STEP n is n ticks of the state with fresh outputs (R118). -/
theorem exec_step_of_ready (n : Nat) {s : State} (h : s.Ready) : exec (.step n) s = .next (ticks n (quiet s)) :=
  exec_of_ready (.step n) h

/-- Where STEP n answers, the state was ready, and the answer is the run of n ticks. -/
theorem exec_step_next {n : Nat} {s t : State} (h : exec (.step n) s = .next t) : s.Ready ∧ t = ticks n (quiet s) :=
  transact_next h

/-- A tick that enters mode m: the mode is written, the events of m are appended, its effect follows (R111). -/
theorem tick_enters {m : Mode} {s : State} (ht : ticking s = true) (hm : nextMode s = m) (hne : s.mode ≠ m) :
    tick s = withEvents (s.events ++ entryEvents m (advanced s)) (entryEffect m (setMode m (advanced s))) := by
  subst hm
  rw [tick_of_entry ht hne.symm, enterMode_eq]
  rfl

/-- Settles O27: the tick's counter and mode from `tick_spec`; within a mode the tick is the new counter alone. -/
theorem tickAdvancesCounterAndMode : Obligations.TickAdvancesCounterAndMode := by
  intro s h ht next
  obtain ⟨hregs, hcnt, hmode, -, -⟩ := tick_spec (quiet s)
  rw [ticking_quiet, if_pos ht] at hcnt hmode
  refine ⟨⟨_, exec_step_of_ready 1 h, hcnt, hmode, hregs.cfg, hregs.lcdc, hregs.statIe, hregs.lyc, hregs.input,
    hregs.result⟩, fun hsame => ?_⟩
  rw [exec_step_of_ready 1 h, ticks_one, tick_of_same_mode (s := quiet s) ht hsame]
  rfl

/-- Settles O29: a tick that ends in PIXEL_TRANSFER moves the counter and, where it enters the mode, writes it. -/
theorem pixelTransferEntryHasNoSideEffect : Obligations.PixelTransferEntryHasNoSideEffect := by
  intro s h ht hm
  rw [exec_step_of_ready 1 h, ticks_one]
  by_cases hne : s.mode = .pixelTransfer
  · rw [tick_of_same_mode (s := quiet s) ht (hm.trans hne.symm), ← hne]
    rfl
  · rw [tick_enters (s := quiet s) ht hm hne]
    rfl

/-- The events of OAM_SEARCH entry (R115). -/
theorem entryEvents_oamSearch (s : State) :
    entryEvents .oamSearch s = (if enabled s .oam = true then [.irqStat .oam] else []) ++
      (if (enabled s .lyc && coincidence s) = true then [.irqStat .lyc] else []) := by
  cases hlyc : enabled s .lyc <;> simp [entryEvents, statEvents, hlyc]

/-- A tick into OAM_SEARCH, from another mode or from the reset point (R115, R122). -/
theorem tick_enters_oamSearch {s : State} (ht : ticking s = true) (hm : nextMode s = .oamSearch)
    (hne : s.mode ≠ .oamSearch) :
    tick (quiet s) = { s with
      cnt := nextCount s.cfg s.cnt, mode := .oamSearch, result := none,
      events := (if enabled s .oam = true then [.irqStat .oam] else []) ++
        (if (enabled s .lyc && decide (lyOf s.cfg (nextCount s.cfg s.cnt) = s.lyc.toNat)) = true
          then [.irqStat .lyc] else []) } := by
  rw [tick_enters (s := quiet s) ht hm hne, entryEvents_oamSearch]
  rfl

/-- The mode whose entry raises an event (R113, R115, R117). -/
def homeMode (e : Event) : Mode :=
  match e with
  | .irqVBlank => .vblank
  | .irqStat .hbl => .hblank
  | .irqStat .vbl => .vblank
  | .irqStat .oam => .oamSearch
  | .irqStat .lyc => .oamSearch
  | .renderLine _ _ => .hblank
  | .hdmaChunk => .hblank
  | .frameReady _ => .vblank
  | .swap _ => .vblank

theorem mem_statEvents {e : Event} {src : StatSource} {s : State} :
    e ∈ statEvents src s ↔ enabled s src = true ∧ e = .irqStat src := by
  simp [statEvents]

/-- An event is raised by the entry into its own mode only. -/
theorem homeMode_of_mem {e : Event} {m : Mode} {s : State} (he : e ∈ entryEvents m s) : homeMode e = m := by
  cases m with
  | hblank =>
    simp only [entryEvents, List.mem_append, List.mem_ite_nil_right, mem_statEvents, List.mem_singleton] at he
    rcases he with ⟨-, ⟨-, rfl⟩ | rfl⟩ | ⟨-, rfl⟩ <;> rfl
  | vblank =>
    simp only [entryEvents, List.mem_append, mem_statEvents, List.mem_cons, List.not_mem_nil, or_false] at he
    rcases he with (rfl | ⟨-, rfl⟩) | rfl | rfl <;> rfl
  | oamSearch =>
    simp only [entryEvents, List.mem_append, List.mem_ite_nil_right, mem_statEvents] at he
    rcases he with ⟨-, rfl⟩ | ⟨-, -, rfl⟩ <;> rfl
  | pixelTransfer => cases he

/-- A tick raises an event only where it enters the event's mode. -/
theorem mem_tickEvents {e : Event} {s : State} :
    e ∈ tickEvents s ↔ ticking s = true ∧ nextMode s = homeMode e ∧ s.mode ≠ homeMode e ∧
      e ∈ entryEvents (homeMode e) (advanced s) := by
  rw [tickEvents]
  constructor
  · intro he
    split_ifs at he with hentry
    · have hhome := homeMode_of_mem he
      exact ⟨hentry.1, hhome.symm, by rw [hhome]; exact hentry.2.symm, by rw [hhome]; exact he⟩
    · cases he
  · rintro ⟨ht, hm, hne, he⟩
    rw [if_pos ⟨ht, by rw [hm]; exact hne.symm⟩, hm]
    exact he

/-- Settles O30: the entry's events in order, and by `mem_tickEvents` no other entry has LYC. -/
theorem oamSearchEntryRaisesOamThenLyc : Obligations.OamSearchEntryRaisesOamThenLyc := by
  constructor
  · intro s h ht hm hne oam lyc
    refine ⟨_, (exec_step_of_ready 1 h).trans (congrArg _ (tick_enters_oamSearch ht hm hne)), rfl, ?_⟩
    change irqStatStrobe { s with events := (if oam = true then _ else _) ++ (if lyc = true then _ else _) } = _
    cases oam <;> cases lyc <;> rfl
  · intro s t hstep hlyc
    obtain ⟨h, rfl⟩ := exec_step_next hstep
    obtain ⟨-, -, hmode, -, hevents⟩ := tick_spec (quiet s)
    rw [ticks_one, hevents, quiet_events, List.nil_append] at hlyc
    obtain ⟨ht, hm, hne, -⟩ := mem_tickEvents.mp hlyc
    rw [if_pos ht, hm] at hmode
    exact ⟨hne, hmode⟩

/-- Settles O35: from the reset point the counter becomes 1, whose mode is OAM_SEARCH of line 0. -/
theorem firstTickAfterResetEntersOamSearch : Obligations.FirstTickAfterResetEntersOamSearch := by
  intro s h hcnt hmode ht hoam
  have hnext : nextCount s.cfg s.cnt = 1 := by rw [hcnt, nextCount_zero h.1]
  have hm : nextMode s = .oamSearch := by rw [nextMode, hnext, modeOf_one h.1, if_pos hoam]
  have hline : 0 = s.lyc.toNat ↔ s.lyc = 0#8 := by rw [eq_comm, ← BitVec.toNat_inj]; rfl
  rw [exec_step_of_ready 1 h, ticks_one, tick_enters_oamSearch ht hm (by rw [hmode]; decide), hnext, (lyOf_one h.1).1]
  simp only [enabled, enableBit, Bool.and_eq_true, decide_eq_true_eq, hline]
  congr

/-- The events of VBLANK entry (R117). -/
theorem entryEvents_vblank (s : State) :
    entryEvents .vblank s = [.irqVBlank] ++ (if enabled s .vbl = true then [.irqStat .vbl] else []) ++
      [.frameReady s.fbSel, .swap (otherFb s.fbSel)] := rfl

/-- VBLANK entry leaves every field but `fb_sel`, the framebuffers and the call counter (R104, R117). -/
theorem entryEffect_vblank_frame (s : State) :
    entryEffect .vblank s = { s with
      fbSel := otherFb s.fbSel, fb0 := (entryEffect .vblank s).fb0, fb1 := (entryEffect .vblank s).fb1,
      calls := (entryEffect .vblank s).calls } :=
  rfl

/-- Settles O31: the entry's events in order; the swap clears the buffer that was complete and no other. -/
theorem vblankEntryNotifiesAndSwaps : Obligations.VblankEntryNotifiesAndSwaps := by
  intro s h ht hm hne
  have htick := tick_enters (s := quiet s) ht hm hne
  have hfb (b : FbIndex) : fb (tick (quiet s)) b = if b = otherFb s.fbSel then [] else fb s b := by
    rw [htick, fb_withEvents, fb_entryEffect]
    simp [advanced]
  obtain ⟨hregs, -, -, hsel, -⟩ := tick_spec (quiet s)
  rw [if_pos ⟨ht, by rw [show nextMode (quiet s) = .vblank from hm]; exact hne.symm, hm⟩] at hsel
  refine ⟨tick (quiet s), exec_step_of_ready 1 h, ?_, ?_, fun i hi => ?_, fun i => ?_⟩
  · rw [htick, entryEffect_vblank_frame, entryEvents_vblank, quiet_events, List.nil_append]
    rfl
  · rw [htick]
    simp [irqVBlankStrobe, entryEvents]
  · have hsize : i < fbSize s.cfg := hi
    simp [pixel, hregs.cfg, hsel, hfb, fbGet, hsize]
  · simp [pixel, hregs.cfg, hfb, (otherFb_ne s.fbSel).symm]

/-- The events of HBLANK entry (R113, R116). -/
theorem entryEvents_hblank (s : State) :
    entryEvents .hblank s = (if enabled s .hbl = true ∧ displayOn s = true then [.irqStat .hbl] else []) ++
      (if displayOn s = true then [.renderLine (scanline s) s.fbSel] else []) ++
      (if s.cfg.variant = .cgb ∧ s.hdmaActive = true then [.hdmaChunk] else []) := by
  cases hon : displayOn s <;> simp [entryEvents, statEvents, hdmaSample, hon]

/-- HBLANK entry leaves every field but the framebuffers, the input line and the call counter (R104, R113). -/
theorem entryEffect_hblank_frame (s : State) :
    entryEffect .hblank s = { s with
      fb0 := (entryEffect .hblank s).fb0, fb1 := (entryEffect .hblank s).fb1,
      hdmaActive := (entryEffect .hblank s).hdmaActive, calls := (entryEffect .hblank s).calls } := by
  unfold entryEffect
  cases displayOn s <;> cases hdmaSample s <;> rfl

/-- A tick never raises the input line (log entry 10). -/
theorem hdmaActive_of_tick {s : State} (h : (tick s).hdmaActive = true) : s.hdmaActive = true := by
  rw [hdmaActive_tick, Bool.and_eq_true] at h
  exact h.1

/-- A pixel is read from the configuration and its own framebuffer. -/
theorem pixel_congr {s t : State} {b : FbIndex} {i : Nat} (hcfg : t.cfg = s.cfg)
    (hget : fbGet s.cfg.clearPixel (fb t b) i = fbGet s.cfg.clearPixel (fb s b) i) : pixel t b i = pixel s b i := by
  rw [pixel, pixel, hcfg, hget]

/-- Settles O28: the entry's events in order; the render writes row LY by the framebuffer's laws, and the chunk alone
moves the line. -/
theorem hblankEntryRendersAndRaises : Obligations.HblankEntryRendersAndRaises := by
  intro s hinv ht hm hne y on
  obtain ⟨h, hcanonical⟩ := hinv
  have hy : y < s.cfg.visible := visible_of_modeOf_ne_vblank (by rw [hm]; decide)
  have htick := tick_enters (s := quiet s) ht hm hne
  obtain ⟨hregs, -, -, -, hevents⟩ := tick_spec (quiet s)
  have hfb (b : FbIndex) : fb (tick (quiet s)) b =
      if on = true ∧ b = s.fbSel then renderRow s.cfg s.calls s.lcdc y b s.cfg.width (fb s b) else fb s b := by
    rw [htick, fb_withEvents, fb_entryEffect]
    simp only [reduceCtorEq, true_and, false_and, if_false]
    rfl
  refine ⟨hy, fun hfreeze => ?_, tick (quiet s), exec_step_of_ready 1 h, ?_, ?_, hdmaActive_of_tick,
    fun hmoved => ?_, fun hon k hk => ?_, fun b i hi => ?_⟩
  · have hon : (on || s.cfg.displayOffPolicy == .runGated) = true := ht
    simpa [hfreeze] using hon
  · rw [htick, withEvents_events, entryEvents_hblank]
    rfl
  · rw [htick, entryEffect_hblank_frame]
    rfl
  · rw [hevents]
    by_contra hchunk
    exact hmoved (hdmaActive_tick_of_no_chunk hchunk)
  · have hrow : y * s.cfg.width + k < fbSize (quiet s).cfg := row_index_lt hy hk
    rw [pixel, hregs.cfg, if_pos hrow, hfb, if_pos ⟨hon, rfl⟩]
    exact congrArg some (fbGet_renderRow_row ((fbsCanonical_iff s).mp hcanonical s.fbSel) hy le_rfl hk)
  · refine pixel_congr hregs.cfg ?_
    rw [hfb]
    split_ifs with hrow
    · have hoff : i < y * s.cfg.width ∨ y * s.cfg.width + s.cfg.width ≤ i := by
        by_contra hin
        exact hi ⟨hrow.1, hrow.2, by omega, by omega⟩
      exact fbGet_renderRow_other ((fbsCanonical_iff s).mp hcanonical b) hy le_rfl hoff
    · rfl

/-! ### STEP as a run of ticks (R118, R119) -/

/-- The events of n ticks. -/
def runEvents (n : Nat) (s : State) : List Event :=
  match n with
  | 0 => []
  | k + 1 => tickEvents s ++ runEvents k (tick s)

/-- A run of ticks reads no event: it appends its own to any list. -/
theorem ticks_withEvents (n : Nat) (es : List Event) (s : State) :
    ticks n (withEvents es s) = withEvents (es ++ runEvents n s) (ticks n s) := by
  induction n generalizing es s with
  | zero => simp [runEvents]
  | succ k ih => rw [ticks_succ, ticks_succ, tick_withEvents, ih, runEvents, List.append_assoc]

theorem ticks_events (n : Nat) (s : State) : (ticks n s).events = s.events ++ runEvents n s :=
  congrArg State.events (ticks_withEvents n s.events s)

/-- Where no read has answered, fresh outputs are an empty event list. -/
theorem quiet_eq_withEvents {s : State} (h : s.result = none) : quiet s = withEvents [] s := by
  rw [quiet, ← h]
  rfl

/-- Settles O33: STEP m begins with no event and ticks read none, so the run goes on as if it had not been cut. -/
theorem stepGranularityDoesNotMatter : Obligations.StepGranularityDoesNotMatter := by
  intro s n m h
  refine ⟨_, ticks n (quiet s), _, exec_step_of_ready (n + m) h, exec_step_of_ready n h,
    exec_step_of_ready m (ready_ticks (s := quiet s) h n), ?_⟩
  rw [quiet_eq_withEvents (ticks_sameRegisters n (quiet s)).result, ticks_withEvents, ticks_add]
  exact ticks_withEvents m (ticks n (quiet s)).events (ticks n (quiet s))

/-- A run of ticks through counter values of one mode moves the counter only (R110). -/
theorem ticks_within_mode {s : State} (ht : ticking s = true) (n : Nat) (hlt : s.cnt + n < framePeriod s.cfg)
    (hm : ∀ k, s.cnt < k → k ≤ s.cnt + n → modeOf s.cfg k = s.mode) : ticks n s = setCnt (s.cnt + n) s := by
  induction n with
  | zero => rfl
  | succ j ih =>
    have hnext : nextCount s.cfg (s.cnt + j) = s.cnt + (j + 1) := Nat.mod_eq_of_lt hlt
    have hsame : nextMode (setCnt (s.cnt + j) s) = (setCnt (s.cnt + j) s).mode := by
      simpa [nextMode, hnext] using hm (s.cnt + (j + 1)) (by omega) le_rfl
    rw [ticks_succ', ih (by omega) fun k hk hkj => hm k hk (by omega),
      tick_of_same_mode (s := setCnt (s.cnt + j) s) ht hsame, advanced, setCnt_cfg, setCnt_cnt, hnext]
    rfl

/-- The reset state moved to a counter value and a mode. -/
def resetAt (count : Nat) (m : Mode) : State := { State.reset with cnt := count, mode := m }

/-- R118's example, from mode to mode of line 0. -/
theorem ticks_252_of_reset : ticks 252 State.reset = tick (resetAt 251 .pixelTransfer) := by
  have hoam : ticks 78 (resetAt 1 .oamSearch) = resetAt 79 .oamSearch := by
    refine ticks_within_mode rfl 78 (by decide) fun k hk hle => (modeOf_eq_oamSearch_iff k).mpr ?_
    simp only [resetAt, State.reset, State.resetWith, Config.defaults, lyOf, dotOf, framePeriod] at hk hle ⊢
    omega
  have hxfer : ticks 171 (resetAt 80 .pixelTransfer) = resetAt 251 .pixelTransfer := by
    refine ticks_within_mode rfl 171 (by decide) fun k hk hle => (modeOf_eq_pixelTransfer_iff k).mpr ?_
    simp only [resetAt, State.reset, State.resetWith, Config.defaults, lyOf, dotOf, framePeriod] at hk hle ⊢
    omega
  have hfirst : tick State.reset = resetAt 1 .oamSearch := rfl
  have henter : tick (resetAt 79 .oamSearch) = resetAt 80 .pixelTransfer := rfl
  rw [show 252 = 1 + 78 + 1 + 171 + 1 from rfl]
  simp only [ticks_add, ticks_one, hfirst, hoam, henter, hxfer]

/-- The word of STEP n by its pattern in the opcode map (30_encoding.md R74, R76). -/
theorem decode_stepWord {n : Nat} (hn : n < 2 ^ 30) : decode (0x80000000#32 ||| BitVec.ofNat 32 n) = .ok (.step n) := by
  have hkind : kindField (0x80000000#32 ||| BitVec.ofNat 32 n) = 2#2 := by
    have hhigh : (BitVec.ofNat 32 n).extractLsb' 30 2 = 0#2 := by
      apply BitVec.eq_of_toNat_eq
      rw [BitVec.extractLsb'_toNat, BitVec.toNat_ofNat, BitVec.toNat_ofNat, Nat.shiftRight_eq_div_pow]
      omega
    rw [kindField, BitVec.extractLsb'_or, hhigh]
    decide
  have hcount : (countField (0x80000000#32 ||| BitVec.ofNat 32 n)).toNat = n := by
    have hlow : (0x80000000#32).extractLsb' 0 30 = 0#30 := by decide
    rw [countField, BitVec.extractLsb'_or, hlow, BitVec.zero_or, BitVec.extractLsb'_toNat, BitVec.toNat_ofNat,
      Nat.shiftRight_zero]
    omega
  rw [decode_of_kind_step hkind, hcount]

/-- The counter runs with the display on or under RunGated (R110, R120). -/
theorem ticking_iff (s : State) :
    ticking s = true ↔ s.lcdc.getLsbD 7 = true ∨ s.cfg.displayOffPolicy = .runGated := by
  rw [ticking, Bool.or_eq_true, beq_iff_eq]
  rfl

/-- A run of ticks never raises the input line (log entry 10). -/
theorem hdmaActive_of_ticks (n : Nat) {s : State} : (ticks n s).hdmaActive = true → s.hdmaActive = true :=
  ticks_induction (fun t => t.hdmaActive = true → s.hdmaActive = true) (fun _ ih h => ih (hdmaActive_of_tick h)) n s id

/-- Settles O32: the counter of a run is `cnt_ticks`, its registers are those of its start. -/
theorem stepAdvancesByItsCount : Obligations.StepAdvancesByItsCount := by
  refine ⟨fun n => decode_stepWord, fun s n h => ?_, fun s => exec_step_of_ready 0, ?_⟩
  · have hregs := ticks_sameRegisters n (quiet s)
    refine ⟨_, exec_step_of_ready n h, ?_, hregs.cfg, hregs.lcdc, hregs.statIe, hregs.lyc, hregs.input, hregs.result,
      hdmaActive_of_ticks n⟩
    simp only [← ticking_iff]
    split_ifs with ht
    · exact cnt_ticks (s := quiet s) h ht n
    · rw [ticks_of_not_ticking (s := quiet s) (Bool.eq_false_iff.mpr ht)]
      rfl
  · refine ⟨_, exec_step_of_ready 252 (by decide), ?_⟩
    rw [show quiet State.reset = State.reset from rfl, ticks_252_of_reset]
    decide

/-! ### The display off (R120) -/

/-- A stored LCDC byte that has the display on keeps a state ready: the framebuffers do not enter. -/
theorem ready_setLcdc_on {v : Byte} (hon : displayEnable v = true) {s : State} (h : s.Ready) : (setLcdc v s).Ready :=
  (inv_setLcdc_on hon (s := { s with fb0 := [], fb1 := [] }) ⟨h, rfl, rfl⟩).1

/-- A ready state whose counter does not run is at the reset point (10_state.md R36). -/
theorem resetPoint_of_not_ticking {s : State} (h : s.Ready) (ht : ticking s = false) : s.cnt = 0 ∧ s.mode = .hblank := by
  obtain ⟨-, -, hstop⟩ := (invariantHolds_iff s).mp h.2
  exact hstop.resolve_left (by rw [ht]; decide)

/-- The events of an entry with the display off are those with it on, less the HBLANK interrupt and the render. -/
theorem entryEvents_displayOff (m : Mode) {v : Byte} {s : State} (hoff : displayOn s = false)
    (hon : displayEnable v = true) :
    entryEvents m s = (entryEvents m (setLcdc v s)).filter fun e => !(e == .irqStat .hbl) && !isRender e := by
  have hdisplay : displayOn (setLcdc v s) = true := hon
  cases m with
  | hblank =>
    cases hchunk : hdmaSample s <;> cases hhbl : enabled s .hbl <;>
      simp [entryEvents, statEvents, hoff, hdisplay, hchunk, hhbl, isRender]
  | vblank => cases hvbl : enabled s .vbl <;> simp [entryEvents, statEvents, hvbl, isRender]
  | oamSearch =>
    cases hco : coincidence s <;> cases hoam : enabled s .oam <;> cases hlyc : enabled s .lyc <;>
      simp [entryEvents, statEvents, hco, hoam, hlyc, isRender]
  | pixelTransfer => rfl

/-- A tick of a running counter with the display off is the tick with it on, less the HBLANK interrupt and the render. -/
theorem tick_displayOff {v : Byte} {s : State} (ht : ticking s = true) (hoff : displayOn s = false)
    (hon : displayEnable v = true) :
    (tick s).cnt = (tick (setLcdc v s)).cnt ∧ (tick s).mode = (tick (setLcdc v s)).mode ∧
    (tick s).fbSel = (tick (setLcdc v s)).fbSel ∧
    tickEvents s = (tickEvents (setLcdc v s)).filter fun e => !(e == .irqStat .hbl) && !isRender e := by
  have hnext : nextMode (setLcdc v s) = nextMode s := rfl
  have hrun : ticking (setLcdc v s) = true := by simp [ticking, displayOn, hon]
  obtain ⟨-, hcnt, hmode, hsel, -⟩ := tick_spec s
  obtain ⟨-, hcnt', hmode', hsel', -⟩ := tick_spec (setLcdc v s)
  refine ⟨?_, ?_, ?_, ?_⟩
  · rw [hcnt, hcnt', ht, hrun]; rfl
  · rw [hmode, hmode', ht, hrun]; rfl
  · rw [hsel, hsel', ht, hrun]; rfl
  · rw [tickEvents, tickEvents, ht, hrun, hnext, setLcdc_mode]
    split_ifs
    · exact entryEvents_displayOff (nextMode s) (s := advanced s) hoff hon
    · rfl

/-- Without a render the display-on tick writes the framebuffers as the display-off tick does. -/
theorem fb_tick_displayOff {v : Byte} {s : State} (ht : ticking s = true) (hon : displayEnable v = true)
    (hrender : ∀ e ∈ tickEvents (setLcdc v s), isRender e = false) (b : FbIndex) :
    fb (tick s) b = fb (tick (setLcdc v s)) b := by
  have hnext : nextMode (setLcdc v s) = nextMode s := rfl
  have hrun : ticking (setLcdc v s) = true := by simp [ticking, displayOn, hon]
  have hno : ¬(nextMode s ≠ s.mode ∧ nextMode s = .hblank) := by
    rintro ⟨hne, hm⟩
    have hrow : .renderLine (scanline (advanced s)) s.fbSel ∈ tickEvents (setLcdc v s) := by
      refine mem_tickEvents.mpr ⟨hrun, hm, fun hmode => hne (hm.trans hmode.symm), ?_⟩
      have hdisplay : displayOn (setLcdc v s) = true := hon
      simp [homeMode, entryEvents, hdisplay, advanced, scanline]
    exact Bool.noConfusion (hrender _ hrow)
  rw [fb_tick, fb_tick, ht, hrun, hnext, setLcdc_mode, setLcdc_fbSel, fb_setLcdc]
  by_cases hne : nextMode s = s.mode
  · simp [hne]
  · have hm : nextMode s ≠ .hblank := fun hm => hno ⟨hne, hm⟩
    simp [hm]

/-- Settles O34: under Freeze no tick changes a thing; under RunGated the tick is `tick_displayOff`. -/
theorem displayOffPolicies : Obligations.DisplayOffPolicies := by
  constructor
  · intro s n h hoff hfreeze
    have ht : ticking s = false := by
      rw [Bool.eq_false_iff, ne_eq, ticking_iff, hoff, hfreeze]
      decide
    obtain ⟨hcnt, hmode⟩ := resetPoint_of_not_ticking h ht
    refine ⟨hcnt, hmode, ?_, _, exec_of_ready .rdLy h, ?_⟩
    · rw [exec_step_of_ready n h, ticks_of_not_ticking (s := quiet s) ht]
      rfl
    · simp [effect, lyByte, scanline, lyOf, hcnt]
  · intro s h hoff hgated
    have ht : ticking s = true := (ticking_iff s).mpr (.inr hgated)
    have hon : displayEnable (s.lcdc ||| 0x80#8) = true := (or_0x80_bits s.lcdc).1
    have h' : (setLcdc (s.lcdc ||| 0x80#8) s).Ready := ready_setLcdc_on hon h
    obtain ⟨hcnt, hmode, hsel, hevents⟩ := tick_displayOff (s := quiet s) ht hoff hon
    obtain ⟨-, hcnt', -, -, hes⟩ := tick_spec (quiet s)
    obtain ⟨-, -, -, -, hes'⟩ := tick_spec (setLcdc (s.lcdc ||| 0x80#8) (quiet s))
    rw [ticking_quiet, if_pos ht] at hcnt'
    refine ⟨_, _, exec_step_of_ready 1 h, exec_step_of_ready 1 h', hcnt', hcnt, hmode, hsel, hes.trans ?_, fun hno => ?_⟩
    · exact hevents.trans (congrArg _ hes'.symm)
    · have hfb := fb_tick_displayOff (s := quiet s) ht hon fun e he => hno e (hes' ▸ List.mem_append_right _ he)
      exact ⟨hfb 0, hfb 1⟩

/-! ### What every transaction shows (R103) -/

/-- Every transaction answers with a ready state. -/
theorem ready_effect (i : Instr) {s : State} (h : s.Ready) : (effect i s).Ready := by
  cases i with
  | rdLcdc | rdStat | rdLy | rdLyc | wrStat _ | wrLy _ | wrLyc _ => exact h
  | wrLcdc data =>
    cases hd : displayEnable data with
    | true => rw [effect_wrLcdc_on hd]; exact ready_setLcdc_on hd h
    | false => rw [effect_wrLcdc_off hd]; exact ready_of_resetPoint h.1 rfl rfl
  | step n => exact ready_ticks h n
  | reset => exact ready_of_resetPoint h.1 rfl rfl

/-- A transaction that answers leaves a ready state, RESET from a state that is not ready too. -/
theorem ready_of_exec {i : Instr} {s t : State} (h : exec i s = .next t) : t.Ready := by
  obtain ⟨hv, hreset | hready, rfl⟩ := exec_next h
  · subst hreset
    exact ready_of_resetPoint hv rfl rfl
  · exact ready_effect i (s := quiet s) hready

/-- The byte LY reads is the scanline, which fits it (41_register_access.md R146). -/
theorem toNat_lyByte {s : State} (hv : validConfig s.cfg = true) : (lyByte s).toNat = scanline s := by
  have hline : scanline s < s.cfg.lines := lyOf_lt_lines hv s.cnt
  have hlines := (validConfig_iff s.cfg).mp hv
  rw [lyByte, BitVec.toNat_ofNat]
  omega

/-- Bit 2 of the byte STAT reads is the coincidence flag (41_register_access.md R144). -/
theorem statByte_bit_two (s : State) : (statByte s).getLsbD 2 = coincidence s := by
  simp only [statByte, BitVec.getLsbD_append]
  simp

/-- Settles O37: the two reads answer, and LY and COINC are computed from the counter they read. -/
theorem scanlineAndCoincidenceMirrorTheCounter : Obligations.ScanlineAndCoincidenceMirrorTheCounter := by
  intro i s t h
  have hready := ready_of_exec h
  refine ⟨_, _, lyByte t, statByte t, exec_of_ready .rdLy hready, rfl, toNat_lyByte hready.1,
    exec_of_ready .rdStat hready, rfl, ?_⟩
  rw [statByte_bit_two, coincidence, ← toNat_lyByte hready.1, Bool.eq_iff_iff, beq_iff_eq, decide_eq_true_iff,
    BitVec.toNat_inj]

/-! ### The events of a run (R123 to R125) -/

/-- An event of a run is raised by one of its ticks. -/
theorem exists_tick_of_mem_run {e : Event} {n : Nat} {s : State} (he : e ∈ runEvents n s) :
    ∃ k, e ∈ tickEvents (ticks k s) := by
  induction n generalizing s with
  | zero => cases he
  | succ j ih =>
    rcases List.mem_append.mp he with hfirst | hrest
    · exact ⟨0, hfirst⟩
    · obtain ⟨k, hk⟩ := ih hrest
      exact ⟨k + 1, hk⟩

/-- A counter that does not run raises nothing (R120). -/
theorem runEvents_of_not_ticking {s : State} (ht : ticking s = false) (n : Nat) : runEvents n s = [] := by
  have hevents := ticks_events n s
  rw [ticks_of_not_ticking ht] at hevents
  exact List.self_eq_append_right.mp hevents

/-- The events of a transaction STEP n are those of its ticks. -/
theorem events_step (n : Nat) (s : State) : (ticks n (quiet s)).events = runEvents n (quiet s) :=
  ticks_events n (quiet s)

@[simp] theorem eventCount_append (p : Event → Bool) (es fs : List Event) :
    eventCount p (es ++ fs) = eventCount p es + eventCount p fs :=
  List.countP_append

@[simp] theorem eventCount_if_singleton (p : Event → Bool) (e : Event) (b : Prop) [Decidable b] :
    eventCount p (if b then [e] else []) = if b ∧ p e = true then 1 else 0 := by
  by_cases hb : b <;> simp [eventCount, hb, List.countP_cons]

theorem SameRegisters.displayOn_eq {s t : State} (h : SameRegisters s t) : displayOn t = displayOn s := by
  rw [displayOn, displayOn, h.lcdc]

theorem SameRegisters.enabled_eq {s t : State} (h : SameRegisters s t) (src : StatSource) :
    enabled t src = enabled s src := by
  rw [enabled, enabled, h.statIe]

theorem sameRegisters_advanced (s : State) : SameRegisters s (advanced s) := ⟨rfl, rfl, rfl, rfl, rfl, rfl⟩

/-- A ready state enters a mode where the table says; OAM_SEARCH it may enter at the reset point too (R102, R122). -/
theorem nextMode_enters_iff {m : Mode} {s : State} (h : s.Ready) (hm : s.mode = modeOf s.cfg s.cnt ∨ m ≠ .oamSearch) :
    nextMode s = m ∧ s.mode ≠ m ↔ entersAt s.cfg m (nextCount s.cfg s.cnt) = true := by
  obtain ⟨hv, hi⟩ := h
  obtain ⟨hlt, hderived | ⟨hcnt, hhblank⟩, -⟩ := (invariantHolds_iff s).mp hi
  · rw [hderived]
    exact modeOf_enters_iff hv m hlt
  · by_cases hd : s.mode = modeOf s.cfg s.cnt
    · rw [hd]
      exact modeOf_enters_iff hv m hlt
    · have hoam : m ≠ .oamSearch := hm.resolve_left hd
      have hcfg := (validConfig_iff s.cfg).mp hv
      obtain ⟨hly, hdot⟩ := lyOf_one hv
      rw [nextMode, hhblank, hcnt, nextCount_zero hv, modeOf_one hv, entersAt, hly, hdot]
      cases m with
      | hblank => simp [entryDot]; omega
      | vblank => simp [entryDot]; split_ifs <;> decide
      | oamSearch => exact absurd rfl hoam
      | pixelTransfer => simp [entryDot, entryLine]; omega

/-- A kind of event that one mode's entries have: its number in a tick. -/
theorem eventCount_tickEvents {p : Event → Bool} {m : Mode} (hp : ∀ e, p e = true → homeMode e = m) {s : State}
    (ht : ticking s = true) :
    eventCount p (tickEvents s) =
      if nextMode s = m ∧ s.mode ≠ m then eventCount p (entryEvents m (advanced s)) else 0 := by
  split_ifs with hentry
  · obtain ⟨rfl, hne⟩ := hentry
    rw [tickEvents, if_pos ⟨ht, hne.symm⟩]
  · rw [eventCount, List.countP_eq_zero]
    intro e he hpe
    obtain ⟨-, hm, hne, -⟩ := mem_tickEvents.mp he
    rw [hp e hpe] at hm hne
    exact hentry ⟨hm, hne⟩

/-- What a counter value adds to a count, where the entry into m on a line adds `w line`. -/
def entryWeight (c : Config) (m : Mode) (w : Nat → Nat) (count : Nat) : Nat :=
  if entersAt c m count then w (lyOf c count) else 0

/-- What a frame adds to it, line by line. -/
def frameWeight (c : Config) (m : Mode) (w : Nat → Nat) : Nat :=
  ∑ line ∈ Finset.range c.lines, if entryLine c m line then w line else 0

/-- Each line of a frame has one entry into a mode at most, at the mode's offset. -/
theorem sum_entryWeight {c : Config} (hc : validConfig c = true) (m : Mode) (w : Nat → Nat) :
    ∑ k ∈ Finset.range (framePeriod c), entryWeight c m w k = frameWeight c m w := by
  rw [framePeriod, sum_lines, frameWeight]
  refine Finset.sum_congr rfl fun line hline => ?_
  have hdot : ∀ dot ∈ Finset.range c.linePeriod, entryWeight c m w (line * c.linePeriod + dot) =
      if entryDot c m = dot then (if entryLine c m line then w line else 0) else 0 := by
    intro dot hd
    rw [Finset.mem_range] at hline hd
    rw [entryWeight, entersAt, lyOf_line_dot hc hline hd, dotOf_line_dot hd]
    by_cases heq : entryDot c m = dot
    · subst heq
      cases entryLine c m line <;> simp
    · simp [heq, Ne.symm heq]
  rw [Finset.sum_congr rfl hdot, Finset.sum_ite_eq, if_pos (Finset.mem_range.mpr (entryDot_lt hc m))]

section Counts

variable {p : Event → Bool} {m : Mode} {w : Nat → Nat} {s : State} (h : s.Ready)
  (hm : s.mode = modeOf s.cfg s.cnt ∨ m ≠ .oamSearch) (hp : ∀ e, p e = true → homeMode e = m)
  (hw : ∀ u, SameRegisters s u → eventCount p (entryEvents m u) = w (scanline u))

include h hm hp hw

/-- The number of events of a kind in a run: the sum over the entries it passes. -/
theorem eventCount_run (ht : ticking s = true) (n : Nat) :
    eventCount p (runEvents n s) =
      ∑ k ∈ Finset.range n, entryWeight s.cfg m w ((s.cnt + k + 1) % framePeriod s.cfg) := by
  have hcount := eventCount_ticks p (entryWeight s.cfg m w)
    (fun t => t.Ready ∧ SameRegisters s t ∧ (t.mode = modeOf t.cfg t.cnt ∨ m ≠ .oamSearch)) ?_ ?_ h rfl ht
    ⟨h, .refl s, hm⟩ n
  · rw [ticks_events, eventCount_append] at hcount
    exact Nat.add_left_cancel hcount
  · rintro t ⟨hready, hregs, hmode⟩
    exact ⟨ready_ticks hready 1, hregs.trans (tick_spec t).1, hmode.imp_left derivedMode_tick⟩
  · rintro t ⟨hready, hregs, hmode⟩ hcfg hrun
    rw [eventCount_tickEvents hp hrun, entryWeight, ← hcfg, hw _ (hregs.trans (sameRegisters_advanced t))]
    simp only [nextMode_enters_iff hready hmode]
    rfl

/-- Over a whole frame the count is that of the frame's entries, wherever it starts. -/
theorem eventCount_frame (ht : ticking s = true) :
    eventCount p (runEvents (framePeriod s.cfg) s) = frameWeight s.cfg m w := by
  rw [eventCount_run h hm hp hw ht, sum_frame _ _ _ (framePeriod_pos h.1), sum_entryWeight h.1]

/-- Over a frame or less the count is at most that. -/
theorem eventCount_le_frame {n : Nat} (hn : n ≤ framePeriod s.cfg) :
    eventCount p (runEvents n s) ≤ frameWeight s.cfg m w := by
  cases ht : ticking s with
  | false =>
    rw [runEvents_of_not_ticking ht]
    exact Nat.zero_le _
  | true =>
    rw [← eventCount_frame h hm hp hw ht, eventCount_run h hm hp hw ht, eventCount_run h hm hp hw ht]
    exact Finset.sum_le_sum_of_subset (Finset.range_mono hn)

end Counts

/-! ### The weight of each kind of event -/

/-- One event on every line, if enabled. -/
def onEveryLine (b : Bool) (_line : Nat) : Nat := if b then 1 else 0

/-- One event on line y, if enabled. -/
def onLine (b : Bool) (y line : Nat) : Nat := if b = true ∧ line = y then 1 else 0

/-- The number of lines on which a mode is entered (R124). -/
def entryLines (c : Config) (m : Mode) : Nat :=
  match m with
  | .vblank => 1
  | .hblank => c.visible
  | .oamSearch => c.visible
  | .pixelTransfer => c.visible

/-- Every line of the table is a line of the frame. -/
theorem entryLine_lt {c : Config} (hc : validConfig c = true) {m : Mode} {line : Nat} (h : entryLine c m line = true) :
    line < c.lines := by
  have hv := (validConfig_iff c).mp hc
  cases m <;> simp only [entryLine, decide_eq_true_eq, beq_iff_eq] at h <;> omega

/-- One line's event comes once in a frame, if the mode is entered on that line. -/
theorem frameWeight_onLine {c : Config} (hc : validConfig c = true) (m : Mode) (b : Bool) (y : Nat) :
    frameWeight c m (onLine b y) = if b = true ∧ entryLine c m y = true then 1 else 0 := by
  have hline : ∀ line, (if entryLine c m line then onLine b y line else 0) =
      if y = line then (if b = true ∧ entryLine c m y = true then 1 else 0) else 0 := by
    intro line
    by_cases hy : y = line
    · subst hy
      cases b <;> simp [onLine]
    · simp [onLine, hy, Ne.symm hy]
  simp only [frameWeight, hline, Finset.sum_ite_eq, Finset.mem_range]
  by_cases hentry : b = true ∧ entryLine c m y = true
  · rw [if_pos (entryLine_lt hc hentry.2)]
  · simp [hentry]

/-- An event of every entry comes once for each line with an entry. -/
theorem frameWeight_onEveryLine {c : Config} (hc : validConfig c = true) (m : Mode) (b : Bool) :
    frameWeight c m (onEveryLine b) = if b then entryLines c m else 0 := by
  have hv := (validConfig_iff c).mp hc
  cases b with
  | false => simp [frameWeight, onEveryLine]
  | true =>
    have hcard : ((Finset.range c.lines).filter fun line => line < c.visible) = Finset.range c.visible := by
      ext line
      simp only [Finset.mem_filter, Finset.mem_range]
      omega
    cases m with
    | vblank => simp [frameWeight, onEveryLine, entryLine, entryLines]; omega
    | hblank | oamSearch | pixelTransfer =>
      simp [frameWeight, onEveryLine, entryLine, entryLines, hcard]

theorem eventCount_irqVBlank (s : State) :
    eventCount (fun e => e == .irqVBlank) (entryEvents .vblank s) = onEveryLine true (scanline s) := by
  simp only [entryEvents_vblank, eventCount_append, eventCount_if_singleton, onEveryLine]
  simp [eventCount]

theorem eventCount_irqStat_vbl (s : State) :
    eventCount (fun e => e == .irqStat .vbl) (entryEvents .vblank s) = onEveryLine (enabled s .vbl) (scanline s) := by
  simp only [entryEvents_vblank, eventCount_append, eventCount_if_singleton, onEveryLine]
  simp [eventCount]

theorem eventCount_irqStat_oam (s : State) :
    eventCount (fun e => e == .irqStat .oam) (entryEvents .oamSearch s) = onEveryLine (enabled s .oam) (scanline s) := by
  simp [entryEvents_oamSearch, onEveryLine]

theorem eventCount_irqStat_lyc (s : State) :
    eventCount (fun e => e == .irqStat .lyc) (entryEvents .oamSearch s) =
      onLine (enabled s .lyc) s.lyc.toNat (scanline s) := by
  simp [entryEvents_oamSearch, onLine, coincidence]

theorem eventCount_irqStat_hbl (s : State) :
    eventCount (fun e => e == .irqStat .hbl) (entryEvents .hblank s) =
      onEveryLine (enabled s .hbl && displayOn s) (scanline s) := by
  simp [entryEvents_hblank, onEveryLine]

theorem eventCount_isRender (s : State) :
    eventCount isRender (entryEvents .hblank s) = onEveryLine (displayOn s) (scanline s) := by
  simp [entryEvents_hblank, onEveryLine, isRender]

theorem isRenderOf_renderLine (y z : Nat) (b : FbIndex) : isRenderOf y (.renderLine z b) = decide (z = y) := by
  rw [Bool.eq_iff_iff]
  fin_cases b <;> simp [isRenderOf]

theorem eventCount_isRenderOf (y : Nat) (s : State) :
    eventCount (isRenderOf y) (entryEvents .hblank s) = onLine (displayOn s) y (scanline s) := by
  have hhbl : isRenderOf y (.irqStat .hbl) = false := rfl
  have hchunk : isRenderOf y .hdmaChunk = false := rfl
  simp [entryEvents_hblank, onLine, isRenderOf_renderLine, hhbl, hchunk]

/-! ### Renders (R123) -/

/-- The kind that one event is: its home is the event's. -/
theorem homeMode_of_beq {e f : Event} (h : (f == e) = true) : homeMode f = homeMode e :=
  congrArg homeMode (beq_iff_eq.mp h)

/-- Renders are HBLANK entry's (R113). -/
theorem homeMode_of_isRender {e : Event} (h : isRender e = true) : homeMode e = .hblank := by
  cases e with
  | renderLine y b => rfl
  | irqVBlank | irqStat _ | hdmaChunk | frameReady _ | swap _ => cases h

theorem homeMode_of_isRenderOf {y : Nat} {e : Event} (h : isRenderOf y e = true) : homeMode e = .hblank := by
  rw [isRenderOf, Bool.or_eq_true, beq_iff_eq, beq_iff_eq] at h
  rcases h with rfl | rfl <;> rfl

/-- The line that a tick reaches where it raises an event of a mode other than VBLANK is visible. -/
theorem line_visible_of_mem {e : Event} {s : State} (he : e ∈ tickEvents s) (hhome : homeMode e ≠ .vblank) :
    scanline (advanced s) < s.cfg.visible := by
  obtain ⟨-, hm, -, -⟩ := mem_tickEvents.mp he
  rw [← hm] at hhome
  exact visible_of_modeOf_ne_vblank hhome

/-- A tick renders the line it reaches, with the display on (R113). -/
theorem renderLine_mem_tickEvents {y : Nat} {b : FbIndex} {s : State} (he : .renderLine y b ∈ tickEvents s) :
    displayOn s = true ∧ y = scanline (advanced s) := by
  obtain ⟨-, -, -, hentry⟩ := mem_tickEvents.mp he
  simp only [homeMode, entryEvents_hblank, List.mem_append, List.mem_ite_nil_right, List.mem_singleton, reduceCtorEq,
    and_false, false_or, or_false, Event.renderLine.injEq] at hentry
  exact ⟨hentry.1, hentry.2.1⟩

/-- Renders of line y, where the registers are those of s. -/
theorem renderOf_weight (y : Nat) {s u : State} (hu : SameRegisters s u) :
    eventCount (isRenderOf y) (entryEvents .hblank u) = onLine (displayOn s) y (scanline u) := by
  rw [eventCount_isRenderOf, hu.displayOn_eq]

/-- Over a frame or less a line is rendered as often as the frame's weight allows (R123). -/
theorem renders_run_le {s : State} (h : s.Ready) {n : Nat} (hn : n ≤ framePeriod s.cfg) (y : Nat) :
    eventCount (isRenderOf y) (runEvents n s) ≤ frameWeight s.cfg .hblank (onLine (displayOn s) y) :=
  eventCount_le_frame h (.inr (by decide)) (fun _ => homeMode_of_isRenderOf)
    (fun u => renderOf_weight y) hn

/-- Settles O43: a render is raised at an HBLANK entry with the display on, and a frame has one on each visible line. -/
theorem rendersAreOfVisibleLinesOncePerFrame : Obligations.RendersAreOfVisibleLinesOncePerFrame := by
  intro s t n hstep
  obtain ⟨h, rfl⟩ := exec_step_next hstep
  rw [events_step]
  refine ⟨fun y b he => ?_, fun hn y => ?_⟩
  · obtain ⟨k, hk⟩ := exists_tick_of_mem_run he
    obtain ⟨hon, rfl⟩ := renderLine_mem_tickEvents hk
    have hregs := ticks_sameRegisters k (quiet s)
    have hvisible := line_visible_of_mem hk (by simp [homeMode])
    rw [hregs.cfg] at hvisible
    rw [hregs.displayOn_eq] at hon
    exact ⟨hon, hvisible⟩
  · have hle := renders_run_le (s := quiet s) h hn y
    rw [frameWeight_onLine (c := (quiet s).cfg) h.1] at hle
    refine hle.trans ?_
    split_ifs <;> decide

/-! ### The LYC source (R125) -/

/-- LYC raises, where the registers are those of s. -/
theorem lyc_weight {s u : State} (hu : SameRegisters s u) :
    eventCount (fun e => e == .irqStat .lyc) (entryEvents .oamSearch u) =
      onLine (enabled s .lyc) s.lyc.toNat (scanline u) := by
  rw [eventCount_irqStat_lyc, hu.enabled_eq, hu.lyc]

theorem onLine_le_one (b : Bool) (y line : Nat) : onLine b y line ≤ 1 := by
  unfold onLine
  split_ifs <;> decide

/-- A tick raises LYC only where it reaches line LYC (R115). -/
theorem lyc_mem_tickEvents {s : State} (he : .irqStat .lyc ∈ tickEvents s) : scanline (advanced s) = s.lyc.toNat := by
  obtain ⟨-, -, -, hentry⟩ := mem_tickEvents.mp he
  simp only [homeMode, entryEvents_oamSearch, List.mem_append, List.mem_ite_nil_right, List.mem_singleton, reduceCtorEq,
    and_false, false_or, Event.irqStat.injEq, Bool.and_eq_true, coincidence, beq_iff_eq] at hentry
  exact hentry.1.2

/-- From a derived mode LYC raises at most once over a frame or less. -/
theorem lyc_run_le_one {s : State} (h : s.Ready) (hd : s.mode = modeOf s.cfg s.cnt) {n : Nat}
    (hn : n ≤ framePeriod s.cfg) : eventCount (fun e => e == .irqStat .lyc) (runEvents n s) ≤ 1 := by
  refine (eventCount_le_frame h (.inl hd) (fun _ => homeMode_of_beq) (fun u => lyc_weight) hn).trans ?_
  rw [frameWeight_onLine h.1]
  split_ifs <;> decide

/-- A count on one line is added to by that line's entry only. -/
theorem entryWeight_onLine_ne_zero {c : Config} {m : Mode} {b : Bool} {y count : Nat}
    (h : entryWeight c m (onLine b y) count ≠ 0) : dotOf c count = entryDot c m ∧ lyOf c count = y := by
  rw [entryWeight, onLine] at h
  split_ifs at h with henters hline
  · rw [entersAt, Bool.and_eq_true, beq_iff_eq] at henters
    exact ⟨henters.2, hline.2⟩
  · exact absurd rfl h
  · exact absurd rfl h

/-- After the first tick a run from the reset point raises LYC for line 0 at the wrap only. -/
theorem lyc_run_from_one {s : State} (h : s.Ready) (ht : ticking s = true) (hd : s.mode = modeOf s.cfg s.cnt)
    (hcnt : s.cnt = 1) (hlyc : s.lyc.toNat = 0) {n : Nat}
    (hpos : 0 < eventCount (fun e => e == .irqStat .lyc) (runEvents n s)) : framePeriod s.cfg ≤ n + 1 := by
  rw [eventCount_run h (.inl hd) (fun _ => homeMode_of_beq) (fun u => lyc_weight) ht] at hpos
  obtain ⟨k, hk, hweight⟩ := Finset.exists_ne_zero_of_sum_ne_zero hpos.ne'
  rw [Finset.mem_range] at hk
  obtain ⟨hdot, hline⟩ := entryWeight_onLine_ne_zero hweight
  have hcount := line_dot_eq (c := s.cfg) (Nat.mod_lt (s.cnt + k + 1) (framePeriod_pos h.1))
  rw [hdot, hline, hlyc, hcnt, Nat.zero_mul, Nat.zero_add] at hcount
  have hwrap : framePeriod s.cfg ∣ 1 + k + 1 := Nat.dvd_of_mod_eq_zero hcount.symm
  have := Nat.le_of_dvd (by omega) hwrap
  omega

/-- From the reset point LYC raises at most twice over a frame or less: at the first tick and at the wrap, both for line 0
(R122). -/
theorem lyc_run_of_resetPoint {s : State} (h : s.Ready) (hcnt : s.cnt = 0) {n : Nat} (hn : n ≤ framePeriod s.cfg) :
    eventCount (fun e => e == .irqStat .lyc) (runEvents n s) ≤ 2 ∧
    (1 < eventCount (fun e => e == .irqStat .lyc) (runEvents n s) → n = framePeriod s.cfg ∧ s.lyc = 0#8) := by
  cases ht : ticking s with
  | false => simp [runEvents_of_not_ticking ht, eventCount]
  | true =>
    cases n with
    | zero => simp [runEvents, eventCount]
    | succ k =>
      obtain ⟨hregs, hcnt', hmode', -, -⟩ := tick_spec s
      rw [if_pos ht] at hcnt' hmode'
      have hnext : nextCount s.cfg s.cnt = 1 := by rw [hcnt, nextCount_zero h.1]
      have hready : (tick s).Ready := ready_ticks h 1
      have hderived : (tick s).mode = modeOf (tick s).cfg (tick s).cnt := by rw [hmode', hregs.cfg, hcnt']; rfl
      have hfirst : eventCount (fun e => e == .irqStat .lyc) (tickEvents s) ≤ 1 := by
        rw [eventCount_tickEvents (fun _ => homeMode_of_beq) ht]
        split_ifs
        · exact (lyc_weight (sameRegisters_advanced s)).trans_le (onLine_le_one _ _ _)
        · exact Nat.zero_le _
      have hrest := lyc_run_le_one hready hderived (n := k) (by rw [hregs.cfg]; omega)
      rw [runEvents, eventCount_append]
      refine ⟨by omega, fun htwo => ?_⟩
      have hlyc : s.lyc.toNat = 0 := by
        have hraised : 0 < eventCount (fun e => e == .irqStat .lyc) (tickEvents s) := by omega
        rw [← lyc_mem_tickEvents (List.count_pos_iff.mp hraised)]
        exact (congrArg (lyOf s.cfg) hnext).trans (lyOf_one h.1).1
      have hwrap := lyc_run_from_one hready ((ticking_tick s).trans ht) hderived (hcnt'.trans hnext)
        ((congrArg BitVec.toNat hregs.lyc).trans hlyc) (n := k) (by omega)
      rw [hregs.cfg] at hwrap
      exact ⟨by omega, BitVec.eq_of_toNat_eq hlyc⟩

/-- Settles O42: from a derived mode `lyc_run_le_one`, from the reset point `lyc_run_of_resetPoint`. -/
theorem lycRaisesOnVisibleLinesOnly : Obligations.LycRaisesOnVisibleLinesOnly := by
  intro s t n hstep raises
  obtain ⟨h, rfl⟩ := exec_step_next hstep
  simp only [raises, events_step]
  refine ⟨fun he => ?_, fun hn => ?_⟩
  · obtain ⟨k, hk⟩ := exists_tick_of_mem_run he
    have hregs := ticks_sameRegisters k (quiet s)
    have hvisible := line_visible_of_mem hk (by decide)
    rw [lyc_mem_tickEvents hk, hregs.cfg, hregs.lyc] at hvisible
    exact hvisible
  · by_cases hd : s.mode = modeOf s.cfg s.cnt
    · have hle := lyc_run_le_one (s := quiet s) h hd hn
      exact ⟨fun _ => hle, by omega, by omega⟩
    · obtain ⟨-, hmode, -⟩ := (invariantHolds_iff s).mp h.2
      obtain ⟨hcnt, hhblank⟩ := hmode.resolve_left hd
      obtain ⟨hle, htwo⟩ := lyc_run_of_resetPoint (s := quiet s) h hcnt hn
      refine ⟨fun hderived => absurd hderived hd, hle, fun hmany => ?_⟩
      obtain ⟨hframe, hlyc⟩ := htwo hmany
      exact ⟨hframe, hcnt, hhblank, hlyc⟩

/-! ### VBLANK (R117) -/

/-- The events that VBLANK entry raises without an enable. -/
def isVblankEvent (e : Event) : Bool := e == .irqVBlank || isFrameReady e || isSwap e

/-- The events of k VBLANK entries, the first with b in progress. -/
def vblankEvents (b : FbIndex) (k : Nat) : List Event :=
  match k with
  | 0 => []
  | j + 1 => [.irqVBlank, .frameReady b, .swap (otherFb b)] ++ vblankEvents (otherFb b) j

theorem isVblankEvent_frameReady (b : FbIndex) : isVblankEvent (.frameReady b) = true := by revert b; decide

theorem isVblankEvent_swap (b : FbIndex) : isVblankEvent (.swap b) = true := by revert b; decide

/-- Only VBLANK entry has them. -/
theorem homeMode_of_isVblankEvent {e : Event} (h : isVblankEvent e = true) : homeMode e = .vblank := by
  cases e with
  | irqVBlank | frameReady _ | swap _ => rfl
  | irqStat _ | renderLine _ _ | hdmaChunk => cases h

/-- A tick has the three events of VBLANK entry and the swap, or neither. -/
theorem vblankEvents_tick (s : State) :
    ∃ k, (tickEvents s).filter isVblankEvent = vblankEvents s.fbSel k ∧ (tick s).fbSel = otherFb^[k] s.fbSel := by
  obtain ⟨-, -, -, hsel, -⟩ := tick_spec s
  by_cases hentry : ticking s = true ∧ nextMode s ≠ s.mode ∧ nextMode s = .vblank
  · refine ⟨1, ?_, by rw [hsel, if_pos hentry]; rfl⟩
    obtain ⟨ht, hne, hm⟩ := hentry
    have hirq : isVblankEvent .irqVBlank = true := rfl
    have hstat : isVblankEvent (.irqStat .vbl) = false := rfl
    rw [tickEvents, if_pos ⟨ht, hne⟩, hm, entryEvents_vblank]
    cases enabled (advanced s) .vbl <;>
      simp [hirq, hstat, isVblankEvent_frameReady, isVblankEvent_swap, vblankEvents, advanced]
  · refine ⟨0, ?_, by rw [hsel, if_neg hentry]; rfl⟩
    rw [vblankEvents, List.filter_eq_nil_iff]
    intro e he hvblank
    obtain ⟨ht, hm, hne, -⟩ := mem_tickEvents.mp he
    rw [homeMode_of_isVblankEvent hvblank] at hm hne
    exact hentry ⟨ht, by rw [hm]; exact hne.symm, hm⟩

/-- Entries one after the other: the later ones begin with the buffer the earlier ones left. -/
theorem vblankEvents_append (b : FbIndex) (j k : Nat) :
    vblankEvents b j ++ vblankEvents (otherFb^[j] b) k = vblankEvents b (j + k) := by
  induction j generalizing b with
  | zero => simp [vblankEvents]
  | succ i ih => rw [Nat.succ_add, vblankEvents, vblankEvents, List.append_assoc, Function.iterate_succ_apply, ih]

/-- A run has the events of a number of VBLANK entries, in order, and a swap for each. -/
theorem vblankEvents_run (n : Nat) (s : State) :
    ∃ k, (runEvents n s).filter isVblankEvent = vblankEvents s.fbSel k ∧ (ticks n s).fbSel = otherFb^[k] s.fbSel := by
  induction n generalizing s with
  | zero => exact ⟨0, rfl, rfl⟩
  | succ m ih =>
    obtain ⟨j, hfirst, hsel⟩ := vblankEvents_tick s
    obtain ⟨k, hrest, hsel'⟩ := ih (tick s)
    rw [hsel] at hrest hsel'
    refine ⟨j + k, ?_, ?_⟩
    · rw [runEvents, List.filter_append, hfirst, hrest, vblankEvents_append]
    · rw [ticks_succ, hsel', Nat.add_comm, Function.iterate_add_apply]

/-- A kind that each VBLANK entry has once is counted by the number of entries. -/
theorem eventCount_vblankEvents {p : Event → Bool} {es : List Event} {b : FbIndex} {k : Nat}
    (hp : ∀ e, p e = true → isVblankEvent e = true)
    (hone : ∀ b, eventCount p [.irqVBlank, .frameReady b, .swap (otherFb b)] = 1)
    (hes : es.filter isVblankEvent = vblankEvents b k) : eventCount p es = k := by
  have hfilter : eventCount p es = eventCount p (es.filter isVblankEvent) := by
    rw [eventCount, eventCount, List.countP_filter]
    refine List.countP_congr fun e _ => ?_
    simpa using hp e
  rw [hfilter, hes]
  clear hes
  induction k generalizing b with
  | zero => rfl
  | succ j ih => rw [vblankEvents, eventCount_append, hone, ih, Nat.add_comm]

/-- k swaps move `fb_sel` by k modulo 2. -/
theorem val_iterate_otherFb (k : Nat) (b : FbIndex) : (otherFb^[k] b).val = (b.val + k) % 2 := by
  induction k generalizing b with
  | zero => have := b.isLt; simp; omega
  | succ j ih =>
    have hval : (otherFb b).val = (b.val + 1) % 2 := by revert b; decide
    rw [Function.iterate_succ_apply, ih, hval]
    omega

theorem irqVBlank_count {es : List Event} {b : FbIndex} {k : Nat}
    (hes : es.filter isVblankEvent = vblankEvents b k) : eventCount (fun e => e == .irqVBlank) es = k :=
  eventCount_vblankEvents (fun e he => by simp [isVblankEvent, he]) (by decide) hes

theorem frameReady_count {es : List Event} {b : FbIndex} {k : Nat}
    (hes : es.filter isVblankEvent = vblankEvents b k) : eventCount isFrameReady es = k :=
  eventCount_vblankEvents (fun e he => by simp [isVblankEvent, he]) (by decide) hes

theorem swap_count {es : List Event} {b : FbIndex} {k : Nat}
    (hes : es.filter isVblankEvent = vblankEvents b k) : eventCount isSwap es = k :=
  eventCount_vblankEvents (fun e he => by simp [isVblankEvent, he]) (by decide) hes

/-- Settles O44: the run's VBLANK events are whole entries, each with one event of each kind and one swap. -/
theorem everyVblankSwapsOnce : Obligations.EveryVblankSwapsOnce := by
  intro s t n hstep k
  obtain ⟨h, rfl⟩ := exec_step_next hstep
  obtain ⟨j, hevents, hsel⟩ := vblankEvents_run n (quiet s)
  rw [← events_step] at hevents
  have hk : k = j := irqVBlank_count hevents
  refine ⟨(frameReady_count hevents).trans hk.symm, (swap_count hevents).trans hk.symm, ?_⟩
  rw [hsel, hk, val_iterate_otherFb]
  rfl

/-- One VBLANK request for each frame period (R124). -/
theorem irqVBlank_frame {s : State} (h : s.Ready) (ht : ticking s = true) :
    eventCount (fun e => e == .irqVBlank) (runEvents (framePeriod s.cfg) s) = 1 := by
  rw [eventCount_frame h (.inr (by decide)) (fun _ => homeMode_of_beq) (fun u _ => eventCount_irqVBlank u) ht,
    frameWeight_onEveryLine h.1]
  rfl

/-- A frame brings a running counter back (R118). -/
theorem cnt_frame {s : State} (h : s.Ready) (ht : ticking s = true) : (ticks (framePeriod s.cfg) s).cnt = s.cnt := by
  obtain ⟨hlt, -, -⟩ := (invariantHolds_iff s).mp h.2
  rw [cnt_ticks h ht, Nat.add_mod_right, Nat.mod_eq_of_lt hlt]

/-- The unconditional events of a frame are those of one VBLANK entry. -/
theorem vblankEvents_frame {s : State} (h : s.Ready) (ht : ticking s = true) :
    (runEvents (framePeriod s.cfg) s).filter isVblankEvent = vblankEvents s.fbSel 1 ∧
    (ticks (framePeriod s.cfg) s).fbSel = otherFb s.fbSel := by
  obtain ⟨k, hevents, hsel⟩ := vblankEvents_run (framePeriod s.cfg) s
  have hk : k = 1 := (irqVBlank_count hevents).symm.trans (irqVBlank_frame h ht)
  rw [hk] at hevents hsel
  exact ⟨hevents, hsel⟩

/-- Settles O45: `vblankEvents_frame`, and a frame's count of ticks is 0 modulo the frame period. -/
theorem oneSwapPerFramePeriod : Obligations.OneSwapPerFramePeriod := by
  intro s h ht
  obtain ⟨hevents, hsel⟩ := vblankEvents_frame (s := quiet s) h ht
  rw [← events_step] at hevents
  exact ⟨_, exec_step_of_ready _ h, cnt_frame (s := quiet s) h ht, hsel, hevents⟩

section Frame

variable {s : State} (h : s.Ready) (ht : ticking s = true)

include h ht

/-- A kind of event that every entry into a mode has, once, if enabled. -/
theorem eventCount_frame_everyLine {p : Event → Bool} {m : Mode} {b : Bool}
    (hm : s.mode = modeOf s.cfg s.cnt ∨ m ≠ .oamSearch) (hp : ∀ e, p e = true → homeMode e = m)
    (hw : ∀ u, SameRegisters s u → eventCount p (entryEvents m u) = onEveryLine b (scanline u)) :
    eventCount p (runEvents (framePeriod s.cfg) s) = if b then entryLines s.cfg m else 0 :=
  (eventCount_frame h hm hp hw ht).trans (frameWeight_onEveryLine h.1 m b)

theorem irqStat_vbl_frame :
    eventCount (fun e => e == .irqStat .vbl) (runEvents (framePeriod s.cfg) s) =
      if enabled s .vbl then 1 else 0 :=
  eventCount_frame_everyLine (m := .vblank) h ht (.inr (by decide)) (fun _ he => homeMode_of_beq he)
    fun u hu => by rw [eventCount_irqStat_vbl, hu.enabled_eq]

theorem irqStat_oam_frame (hd : s.mode = modeOf s.cfg s.cnt) :
    eventCount (fun e => e == .irqStat .oam) (runEvents (framePeriod s.cfg) s) =
      if enabled s .oam then s.cfg.visible else 0 :=
  eventCount_frame_everyLine (m := .oamSearch) h ht (.inl hd) (fun _ he => homeMode_of_beq he)
    fun u hu => by rw [eventCount_irqStat_oam, hu.enabled_eq]

theorem irqStat_lyc_frame (hd : s.mode = modeOf s.cfg s.cnt) :
    eventCount (fun e => e == .irqStat .lyc) (runEvents (framePeriod s.cfg) s) =
      if enabled s .lyc = true ∧ s.lyc.toNat < s.cfg.visible then 1 else 0 := by
  rw [eventCount_frame h (.inl hd) (fun _ => homeMode_of_beq) (fun u => lyc_weight) ht, frameWeight_onLine h.1]
  simp only [homeMode, entryLine, decide_eq_true_eq]

theorem irqStat_hbl_frame (hon : displayOn s = true) :
    eventCount (fun e => e == .irqStat .hbl) (runEvents (framePeriod s.cfg) s) =
      if enabled s .hbl then s.cfg.visible else 0 :=
  eventCount_frame_everyLine (m := .hblank) h ht (.inr (by decide)) (fun _ he => homeMode_of_beq he)
    fun u hu => by rw [eventCount_irqStat_hbl, hu.enabled_eq, hu.displayOn_eq, hon, Bool.and_true]

theorem renders_frame (hon : displayOn s = true) :
    eventCount isRender (runEvents (framePeriod s.cfg) s) = s.cfg.visible :=
  eventCount_frame_everyLine (b := true) h ht (.inr (by decide)) (fun _ => homeMode_of_isRender)
    fun u hu => by rw [eventCount_isRender, hu.displayOn_eq, hon]

theorem rendersOf_frame (hon : displayOn s = true) {y : Nat} (hy : y < s.cfg.visible) :
    eventCount (isRenderOf y) (runEvents (framePeriod s.cfg) s) = 1 := by
  rw [eventCount_frame h (.inr (by decide)) (fun _ => homeMode_of_isRenderOf) (fun u => renderOf_weight y) ht,
    frameWeight_onLine h.1, if_pos ⟨hon, decide_eq_true hy⟩]

end Frame

/-- Settles O46: each kind's count is the frame's weight of its mode's entries. -/
theorem frameEmitsItsEvents : Obligations.FrameEmitsItsEvents := by
  intro s h hon hd
  have ht : ticking s = true := (ticking_iff s).mpr (.inl hon)
  obtain ⟨hevents, hsel⟩ := vblankEvents_frame (s := quiet s) h ht
  refine ⟨_, exec_step_of_ready _ h, cnt_frame (s := quiet s) h ht, hsel, ?_⟩
  rw [events_step]
  exact ⟨irqVBlank_frame (s := quiet s) h ht, frameReady_count hevents, swap_count hevents,
    fun y => rendersOf_frame (s := quiet s) h ht hon, renders_frame (s := quiet s) h ht hon,
    irqStat_hbl_frame (s := quiet s) h ht hon, irqStat_vbl_frame (s := quiet s) h ht,
    irqStat_oam_frame (s := quiet s) h ht hd, irqStat_lyc_frame (s := quiet s) h ht hd⟩

/-! ### DMA chunks (R116) -/

/-- A tick has a chunk on CGB only, with the input line high (R116). -/
theorem hdmaChunk_mem_tickEvents {s : State} (he : .hdmaChunk ∈ tickEvents s) :
    s.cfg.variant = .cgb ∧ s.hdmaActive = true := by
  obtain ⟨-, -, -, hentry⟩ := mem_tickEvents.mp he
  simp only [homeMode, entryEvents_hblank, List.mem_append, List.mem_ite_nil_right, List.mem_singleton, reduceCtorEq,
    and_false, false_or, and_true] at hentry
  exact hentry

theorem runEvents_succ' (n : Nat) (s : State) : runEvents (n + 1) s = runEvents n s ++ tickEvents (ticks n s) := by
  induction n generalizing s with
  | zero => exact List.append_nil _
  | succ k ih => rw [runEvents, ih, runEvents, List.append_assoc, ticks_succ]

/-- Chunks and renders of a run against its HBLANK entries, for a running counter. -/
theorem hblank_counts_run {s : State} (h : s.Ready) (ht : ticking s = true) (n : Nat) :
    eventCount (fun e => e == .hdmaChunk) (runEvents n s) ≤ hblankEntries s.cfg s.cnt n ∧
    (s.cfg.variant = .cgb → (ticks n s).hdmaActive = true →
      eventCount (fun e => e == .hdmaChunk) (runEvents n s) = hblankEntries s.cfg s.cnt n) ∧
    (displayOn s = true → eventCount isRender (runEvents n s) = hblankEntries s.cfg s.cnt n) := by
  induction n with
  | zero => exact ⟨le_rfl, fun _ _ => rfl, fun _ => rfl⟩
  | succ k ih =>
    obtain ⟨hle, hchunks, hrenders⟩ := ih
    have hregs := ticks_sameRegisters k s
    have hly : lyOf s.cfg ((s.cnt + k) % framePeriod s.cfg + 1) = lyOf s.cfg (s.cnt + k + 1) := by
      rw [← lyOf_mod, Nat.mod_add_mod, lyOf_mod]
    have hdot : dotOf s.cfg ((s.cnt + k) % framePeriod s.cfg + 1) = dotOf s.cfg (s.cnt + k + 1) := by
      rw [← dotOf_mod, Nat.mod_add_mod, dotOf_mod]
    obtain ⟨hchunk, hrender⟩ := hblank_counts_tick (ready_ticks h k) ((ticking_ticks k s).trans ht)
    rw [hregs.cfg, cnt_ticks h ht, hly, hdot] at hchunk hrender
    rw [runEvents_succ', eventCount_append, eventCount_append, hblankEntries_succ, hchunk]
    refine ⟨?_, fun hcgb hactive => ?_, fun hon => ?_⟩
    · exact Nat.add_le_add hle (by split_ifs <;> simp)
    · rw [ticks_succ'] at hactive
      have hline := hdmaActive_of_tick hactive
      have hsample : hdmaSample (ticks k s) = true := by simp [hdmaSample, hregs.cfg, hcgb, hline]
      rw [hchunks hcgb hline, if_pos hsample]
    · rw [hrenders hon, hrender (hregs.displayOn_eq.trans hon)]

/-- Settles O48: `hblank_counts_run` while the counter runs; otherwise there is no event. -/
theorem chunksFollowTheHblankEntries : Obligations.ChunksFollowTheHblankEntries := by
  intro s t n hstep chunks entries
  obtain ⟨h, rfl⟩ := exec_step_next hstep
  simp only [chunks, entries, events_step, ← ticking_iff]
  constructor
  · intro he
    obtain ⟨k, hk⟩ := exists_tick_of_mem_run he
    obtain ⟨hcgb, hactive⟩ := hdmaChunk_mem_tickEvents hk
    rw [(ticks_sameRegisters k (quiet s)).cfg] at hcgb
    exact ⟨hcgb, hdmaActive_of_ticks (s := quiet s) k hactive⟩
  · by_cases ht : ticking s = true
    · rw [if_pos ht]
      exact hblank_counts_run (s := quiet s) h ht n
    · rw [if_neg ht, runEvents_of_not_ticking (s := quiet s) (Bool.eq_false_iff.mpr ht)]
      exact ⟨le_rfl, fun _ _ => rfl, fun _ => rfl⟩

end Sys2Proof.Machine

/-! PROOF. The register accesses' statements (41_register_access.md). A write's word is its opcode-map pattern with the
data in the low byte. A read returns `registerByte` and leaves the state as it is (`exec_rdOf`), so that a read after a
write is two answers (`exec_rdOf_after`); the bytes that STAT and LY read are taken apart field by field. -/

namespace Sys2Proof

/-- The word of a WR is the register's pattern in the opcode map with the data in its low byte (30_encoding.md R76). -/
theorem accessWord_or_data (kind : BitVec 2) (p : Port) (data : Byte) :
    accessWord kind p 0#8 ||| data.setWidth 32 = accessWord kind p data := by
  have hdata : data.setWidth 32 = 0#24 ++ data := BitVec.setWidth_eq_append (by decide)
  rw [hdata]
  simp only [accessWord]
  rw [BitVec.or_append (x₂ := 0#24), BitVec.or_zero, BitVec.zero_or]

/-- The decoder reads back the data of a WR from the register's pattern (30_encoding.md R73, R76). -/
theorem decode_wrPattern (p : Port) (data : Byte) :
    decode (accessWord 1#2 p 0#8 ||| data.setWidth 32) = .ok (wrOf p data) := by
  rw [accessWord_or_data]
  exact decode_accessWord_wr p data

end Sys2Proof

namespace Sys2Proof.Machine

/-! ### Reads (R141, R144, R146, R148) -/

/-- The byte that a read of a register returns. -/
def registerByte (p : Port) (s : State) : Byte :=
  match p with
  | .lcdc => s.lcdc
  | .stat => statByte s
  | .ly => lyByte s
  | .lyc => s.lyc

theorem effect_rdOf (p : Port) (s : State) : effect (rdOf p) s = answerByte (registerByte p s) s := by
  cases p <;> rfl

/-- No register depends on the outputs of the transaction before (10_state.md R35). -/
@[simp] theorem registerByte_quiet (p : Port) (s : State) : registerByte p (quiet s) = registerByte p s := by
  cases p <;> rfl

@[simp] theorem registerByte_answerByte (p : Port) (v : Byte) (s : State) :
    registerByte p (answerByte v s) = registerByte p s := by
  cases p <;> rfl

/-- A read returns the register's byte and leaves everything but the outputs. -/
theorem exec_rdOf (p : Port) {s : State} (h : s.Ready) :
    exec (rdOf p) s = .next (answerByte (registerByte p s) (quiet s)) := by
  rw [exec_of_ready _ h, effect_rdOf, registerByte_quiet]

/-- A read repeated answers with the same state and the same byte (R140). -/
theorem exec_rdOf_again (p : Port) {s : State} (h : s.Ready) :
    exec (rdOf p) (answerByte (registerByte p s) (quiet s)) = .next (answerByte (registerByte p s) (quiet s)) := by
  rw [exec_rdOf p (s := answerByte _ (quiet s)) h, registerByte_answerByte, registerByte_quiet]
  rfl

/-- A read after any transaction answers with the register's byte in the state that the transaction left. -/
theorem exec_rdOf_after (i : Instr) (p : Port) {s : State} (h : s.Ready) :
    ∃ t u, exec i s = .next t ∧ exec (rdOf p) t = .next u ∧
      u.result = some (registerByte p (effect i (quiet s))) :=
  ⟨_, _, exec_of_ready i h, exec_rdOf p (ready_effect i (s := quiet s) h), rfl⟩

/-- The transactions of the reads are those of the four registers. -/
theorem exists_rdOf_of_mem {i : Instr} (hi : i ∈ [Instr.rdLcdc, .rdStat, .rdLy, .rdLyc]) : ∃ p, i = rdOf p := by
  simp only [List.mem_cons, List.not_mem_nil, or_false] at hi
  rcases hi with rfl | rfl | rfl | rfl
  · exact ⟨.lcdc, rfl⟩
  · exact ⟨.stat, rfl⟩
  · exact ⟨.ly, rfl⟩
  · exact ⟨.lyc, rfl⟩

/-! ### The fields of the byte that STAT reads (R144); bit 2 is `statByte_bit_two` -/

theorem statByte_bit_seven (s : State) : (statByte s).getLsbD 7 = s.cfg.statBit7 := by
  simp only [statByte, BitVec.getLsbD_append]
  simp

theorem statByte_enables (s : State) : (statByte s).extractLsb' 3 4 = s.statIe := by
  rw [statByte, BitVec.extractLsb'_append_eq_of_le (by decide), BitVec.extractLsb'_append_eq_of_le (by decide)]
  exact BitVec.extractLsb'_append_eq_right

theorem statByte_mode (s : State) : (statByte s).extractLsb' 0 2 = modeCode s.mode :=
  BitVec.extractLsb'_append_eq_right

/-- The mask 0x78 keeps the enables of a byte split as STAT is. -/
theorem statFields_and_0x78 (bit7 : BitVec 1) (enables : BitVec 4) (coinc : BitVec 1) (mode : BitVec 2) :
    (bit7 ++ enables ++ coinc ++ mode) &&& 0x78#8 = 0#1 ++ enables ++ 0#1 ++ 0#2 := by
  change (bit7 ++ enables ++ coinc ++ mode) &&& (0#1 ++ BitVec.allOnes 4 ++ 0#1 ++ 0#2) = _
  simp only [BitVec.and_append, BitVec.and_zero, BitVec.and_allOnes]

/-- The mask 0x87 keeps the other fields. -/
theorem statFields_and_0x87 (bit7 : BitVec 1) (enables : BitVec 4) (coinc : BitVec 1) (mode : BitVec 2) :
    (bit7 ++ enables ++ coinc ++ mode) &&& 0x87#8 = bit7 ++ 0#4 ++ coinc ++ mode := by
  change (bit7 ++ enables ++ coinc ++ mode) &&& (BitVec.allOnes 1 ++ 0#4 ++ BitVec.allOnes 1 ++ BitVec.allOnes 2) = _
  simp only [BitVec.and_append, BitVec.and_zero, BitVec.and_allOnes]

/-- A byte is its fields, split as STAT is. -/
theorem eq_statFields (d : Byte) :
    d = d.extractLsb' 7 1 ++ enablesOf d ++ d.extractLsb' 2 1 ++ d.extractLsb' 0 2 := by
  rw [enablesOf, BitVec.extractLsb'_append_extractLsb'_eq_extractLsb' (start₂ := 7) (start₁ := 3) (len₁ := 4) rfl,
    BitVec.extractLsb'_append_extractLsb'_eq_extractLsb' (start₂ := 3) (start₁ := 2) (len₁ := 1) rfl,
    BitVec.extractLsb'_append_extractLsb'_eq_extractLsb' (start₂ := 2) (start₁ := 0) (len₁ := 2) rfl]
  exact BitVec.extractLsb'_eq_self.symm

/-- Written enables read back, whatever the other bits of the data are (R145). -/
theorem statByte_setStatIe_and_0x78 (d : Byte) (s : State) :
    statByte (setStatIe (enablesOf d) s) &&& 0x78#8 = d &&& 0x78#8 := by
  conv_rhs => rw [eq_statFields d, statFields_and_0x78]
  exact statFields_and_0x78 _ _ _ _

/-- The enables show in no other bit of STAT. -/
theorem statByte_setStatIe_and_0x87 (v : BitVec 4) (s : State) :
    statByte (setStatIe v s) &&& 0x87#8 = statByte s &&& 0x87#8 := by
  simp only [statByte, statFields_and_0x87]
  rfl

/-! ### The scanline (R146) and the coincidence flag (10_state.md R28) -/

theorem coincidence_eq (s : State) : coincidence s = decide (scanline s = s.lyc.toNat) :=
  Bool.beq_eq_decide_eq _ _

/-- In a ready state the counter is in range, so that the scanline is the plain quotient. -/
theorem scanline_of_ready {s : State} (h : s.Ready) : scanline s = s.cnt / s.cfg.linePeriod := by
  obtain ⟨hcnt, -, -⟩ := (invariantHolds_iff s).mp h.2
  rw [scanline, lyOf, Nat.mod_eq_of_lt hcnt]

theorem scanline_of_cnt_zero {s : State} (hcnt : s.cnt = 0) : scanline s = 0 := by
  simp [scanline, lyOf, hcnt]

theorem lyByte_of_cnt_zero {s : State} (hcnt : s.cnt = 0) : lyByte s = 0#8 := by
  rw [lyByte, scanline_of_cnt_zero hcnt]

/-- On scanline 0 the coincidence flag asks whether LYC is 0. -/
theorem coincidence_of_cnt_zero {s : State} (hcnt : s.cnt = 0) : coincidence s = decide (s.lyc = 0#8) := by
  simp only [coincidence_eq, scanline_of_cnt_zero hcnt, ← BitVec.toNat_inj]
  exact decide_eq_decide.mpr eq_comm

/-- LY reads 0 after a transaction that left the counter at 0. -/
theorem exec_rdLy_after_of_cnt_zero {i : Instr} {s : State} (h : s.Ready) (hcnt : (effect i (quiet s)).cnt = 0) :
    ∃ t u, exec i s = .next t ∧ exec .rdLy t = .next u ∧ u.result = some 0x00#8 := by
  have hread := exec_rdOf_after i .ly h
  rwa [registerByte, lyByte_of_cnt_zero hcnt] at hread

/-- The counter stands still with the display off under Freeze (40_timing_fsm.md R120). -/
theorem not_ticking_of_freeze {s : State} (hoff : s.lcdc.getLsbD 7 = false)
    (hfreeze : s.cfg.displayOffPolicy = .freeze) : ticking s = false := by
  rw [Bool.eq_false_iff, ne_eq, ticking_iff, hoff, hfreeze]
  decide

/-! ### The registers, one by one -/

/-- Settles O9: the read's answer, and after a write LCDC is the data. -/
theorem rdLcdcReturnsTheStoredByte : Obligations.RdLcdcReturnsTheStoredByte := by
  refine ⟨decode_accessWord_rd .lcdc, fun _ => exec_rdOf .lcdc, fun s d h => ?_⟩
  have hread := exec_rdOf_after (.wrLcdc d) .lcdc h
  rwa [registerByte, effect_wrLcdc_eq] at hread

/-- Settles O10: the two cases of the write; the reads after it are at counter 0 in HBLANK. -/
theorem wrLcdcStoresAndResetsTimingWhenOff : Obligations.WrLcdcStoresAndResetsTimingWhenOff := by
  refine ⟨decode_wrPattern .lcdc, fun s d h hon => ?_, fun s d h hoff => ?_, fun s d h hoff => ?_⟩
  · rw [exec_of_ready _ h, effect_wrLcdc_on hon]
    rfl
  · rw [exec_of_ready _ h, effect_wrLcdc_off hoff]
    rfl
  · have heffect := effect_wrLcdc_off hoff (quiet s)
    have hready := ready_effect (.wrLcdc d) (s := quiet s) h
    have hwrite := exec_of_ready (.wrLcdc d) h
    rw [heffect] at hready hwrite
    refine ⟨_, _, _, _, hwrite, exec_rdOf .ly hready, ?_, exec_rdOf .stat hready, rfl, ?_, ?_⟩
    · exact congrArg some (lyByte_of_cnt_zero rfl)
    · exact statByte_mode _
    · exact (statByte_bit_two _).trans (coincidence_of_cnt_zero rfl)

/-- Settles O11: the fields of `statByte`; the example is run. -/
theorem rdStatAssemblesTheByte : Obligations.RdStatAssemblesTheByte := by
  refine ⟨decode_accessWord_rd .stat, fun s h => ?_, ⟨_, _, _, rfl, rfl, rfl, by decide⟩⟩
  refine ⟨statByte s, exec_rdOf .stat h, statByte_bit_seven s, statByte_enables s, ?_, statByte_mode s⟩
  exact (statByte_bit_two s).trans (coincidence_eq s)

/-- Settles O12: the enables are stored, and STAT shows them in bits 6..3 and nowhere else. -/
theorem wrStatStoresTheEnables : Obligations.WrStatStoresTheEnables := by
  refine ⟨decode_wrPattern .stat, fun s d => exec_of_ready (.wrStat d), fun s d h => ?_⟩
  obtain ⟨u, v, hwrite, hread, hresult⟩ := exec_rdOf_after (.wrStat d) .stat h
  refine ⟨_, u, v, _, _, exec_rdOf .stat h, rfl, hwrite, hread, hresult, ?_, ?_⟩
  · exact statByte_setStatIe_and_0x78 d (quiet s)
  · exact statByte_setStatIe_and_0x87 (enablesOf d) (quiet s)

/-- Settles O13: the byte is the scanline; the counter is 0 after either reset and with the display off under Freeze. -/
theorem rdLyReturnsTheScanline : Obligations.RdLyReturnsTheScanline := by
  refine ⟨decode_accessWord_rd .ly, fun s h => ⟨lyByte s, exec_rdOf .ly h, ?_, ?_, ?_⟩, fun s h => ?_,
    fun s d h hoff => ?_, fun s h hcfg hcnt => ⟨_, exec_rdOf .ly h, ?_⟩⟩
  · rw [toNat_lyByte h.1, scanline_of_ready h]
  · rw [toNat_lyByte h.1]
    exact Nat.le_sub_one_of_lt (lyOf_lt_lines h.1 s.cnt)
  · intro hfreeze hoff
    exact lyByte_of_cnt_zero (resetPoint_of_not_ticking h (not_ticking_of_freeze hoff hfreeze)).1
  · exact exec_rdLy_after_of_cnt_zero h rfl
  · exact exec_rdLy_after_of_cnt_zero h (by rw [effect_wrLcdc_off hoff]; rfl)
  · refine congrArg some (BitVec.eq_of_toNat_eq ?_)
    rw [registerByte, toNat_lyByte h.1, scanline_of_ready h, hcfg, hcnt]
    rfl

/-- Settles O14: the write leaves the state but for its outputs, and LY does not depend on them. -/
theorem wrLyIsDiscarded : Obligations.WrLyIsDiscarded := by
  refine ⟨decode_wrPattern .ly, fun s d => exec_of_ready (.wrLy d), fun s d h => ?_⟩
  obtain ⟨u, v, hwrite, hread, hresult⟩ := exec_rdOf_after (.wrLy d) .ly h
  exact ⟨_, u, v, exec_rdOf .ly h, hwrite, hread, hresult⟩

/-- Settles O15: the read's answer, and after a write LYC is the data. -/
theorem rdLycReturnsTheStoredByte : Obligations.RdLycReturnsTheStoredByte :=
  ⟨decode_accessWord_rd .lyc, fun _ => exec_rdOf .lyc, fun _ d => exec_rdOf_after (.wrLyc d) .lyc⟩

/-- Settles O16: the flag is computed from the LYC just written, and no scanline reaches P_LINES. -/
theorem wrLycStoresAndMovesCoincidence : Obligations.WrLycStoresAndMovesCoincidence := by
  refine ⟨decode_wrPattern .lyc, fun s d => exec_of_ready (.wrLyc d), fun s d h => ?_, fun s h hlyc => ?_⟩
  · obtain ⟨t, u, hwrite, hread, hresult⟩ := exec_rdOf_after (.wrLyc d) .stat h
    refine ⟨t, u, _, hwrite, hread, hresult, ?_⟩
    refine (statByte_bit_two _).trans ?_
    rw [coincidence_eq, scanline_of_ready (ready_effect (.wrLyc d) (s := quiet s) h)]
    rfl
  · refine ⟨_, _, exec_rdOf .stat h, rfl, (statByte_bit_two s).trans ?_⟩
    have hline : scanline s < s.cfg.lines := lyOf_lt_lines h.1 s.cnt
    rw [coincidence_eq, decide_eq_false (by omega)]

/-- Settles O17: access by access, only WR LCDC touches the counter, and with bit 7 clear only; a read is `exec_rdOf`,
repeated `exec_rdOf_again`. -/
theorem registerAccessesAreQuiet : Obligations.RegisterAccessesAreQuiet := by
  constructor
  · intro i s hreset hstep h
    refine ⟨_, exec_of_ready i h, ?_⟩
    cases i with
    | rdLcdc | rdStat | rdLy | rdLyc | wrStat _ | wrLy _ | wrLyc _ =>
      exact ⟨rfl, rfl, rfl, rfl, rfl, rfl, rfl, .inl rfl⟩
    | wrLcdc d =>
      rw [effect_wrLcdc_eq]
      refine ⟨rfl, rfl, rfl, rfl, rfl, rfl, rfl, ?_⟩
      cases hd : displayEnable d with
      | true => exact .inl rfl
      | false => exact .inr ⟨rfl, d, rfl, hd⟩
    | step n => exact absurd rfl (hstep n)
    | reset => exact absurd rfl hreset
  · intro i s hi h
    obtain ⟨p, rfl⟩ := exists_rdOf_of_mem hi
    exact ⟨registerByte p s, exec_rdOf p h, exec_rdOf_again p h⟩

/-! ### A write to LCDC and the tick after it (R143) -/

/-- The counter and the mode after a tick of a running counter (40_timing_fsm.md R110). -/
theorem cnt_mode_tick {s : State} (ht : ticking s = true) :
    (tick s).cnt = nextCount s.cfg s.cnt ∧ (tick s).mode = modeOf s.cfg (tick s).cnt := by
  obtain ⟨-, hcnt, hmode, -, -⟩ := tick_spec s
  rw [if_pos ht] at hcnt hmode
  exact ⟨hcnt, by rw [hmode, hcnt, nextMode]⟩

/-- The first tick from counter 0 leads to counter 1 in OAM_SEARCH (40_timing_fsm.md R122; log entry 17). -/
theorem cnt_mode_tick_of_cnt_zero {s : State} (hv : validConfig s.cfg = true) (ht : ticking s = true) (hcnt : s.cnt = 0)
    (hoam : 1 < s.cfg.oamEnd) : (tick s).cnt = 1 ∧ (tick s).mode = .oamSearch := by
  obtain ⟨hnext, hmode⟩ := cnt_mode_tick ht
  rw [hcnt, nextCount_zero hv] at hnext
  rw [hnext, modeOf_one hv, if_pos hoam] at hmode
  exact ⟨hnext, hmode⟩

/-- Settles O36: by the new value of bit 7, then one tick of the state that the write left. -/
theorem lcdcWriteThenTick : Obligations.LcdcWriteThenTick := by
  intro s d h hoam
  refine ⟨_, _, exec_of_ready (.wrLcdc d) h, exec_step_of_ready 1 (ready_effect (.wrLcdc d) (s := quiet s) h), ?_⟩
  rw [ticks_one]
  cases hd : d.getLsbD 7 with
  | true =>
    rw [effect_wrLcdc_on hd]
    have ht : ticking (quiet (setLcdc d (quiet s))) = true := (ticking_iff _).mpr (.inl hd)
    obtain ⟨hcnt, hmode⟩ := cnt_mode_tick ht
    refine ⟨fun _ => ⟨rfl, rfl, hcnt, hmode⟩, fun _ hoff hfreeze => ?_, nofun, nofun, nofun⟩
    obtain ⟨hzero, -⟩ := resetPoint_of_not_ticking h (not_ticking_of_freeze hoff hfreeze)
    exact cnt_mode_tick_of_cnt_zero h.1 ht hzero hoam
  | false =>
    rw [effect_wrLcdc_off hd]
    refine ⟨nofun, nofun, fun _ => ⟨rfl, rfl⟩, fun _ hfreeze => ?_, fun _ hgated => ?_⟩
    · have ht : ticking (quiet (displayOffReset (setLcdc d (quiet s)))) = false := not_ticking_of_freeze hd hfreeze
      rw [tick_of_not_ticking ht]
      exact ⟨rfl, rfl⟩
    · exact cnt_mode_tick_of_cnt_zero h.1 ((ticking_iff _).mpr (.inr hgated)) rfl hoam

end Sys2Proof.Machine

/-! PROOF. The statements of 60_exceptions.md. The fault is the guard of 10_state.md R36 alone, and no run from reset
meets it (R172); a status request needs its enable (R173, R175); a display that is off is woken by two transactions
only (R184). -/

namespace Sys2Proof.Machine

/-! ### The fault (R172) -/

theorem noFault_next (t : State) : NoFault (.next t) := nofun

theorem noFault_refused (r : Refusal) : NoFault (.refused r) := nofun

/-- A transaction in a ready state is no fault. -/
theorem noFault_exec_of_ready (i : Instr) {s : State} (h : s.Ready) : NoFault (exec i s) := by
  rw [exec_of_ready i h]
  exact noFault_next _

/-- The counter stands still with the display off under Freeze only (40_timing_fsm.md R120). -/
theorem not_ticking_iff (s : State) :
    ticking s = false ↔ s.cfg.displayOffPolicy = .freeze ∧ s.lcdc.getLsbD 7 = false := by
  rw [← Bool.not_eq_true, ticking_iff, not_or, Bool.not_eq_true, and_comm]
  cases s.cfg.displayOffPolicy <;> simp

/-- 10_state.md R36 as the rule writes it: its last clause is about a display that is off under Freeze. -/
theorem invariantHolds_iff_freeze (s : State) :
    invariantHolds s = true ↔
      s.cnt < framePeriod s.cfg ∧ (s.mode = modeOf s.cfg s.cnt ∨ s.cnt = 0 ∧ s.mode = .hblank) ∧
      (s.cfg.displayOffPolicy = .freeze → s.lcdc.getLsbD 7 = false → s.cnt = 0 ∧ s.mode = .hblank) := by
  rw [invariantHolds_iff]
  refine and_congr_right fun _ => and_congr_right fun _ => ?_
  rw [or_iff_not_imp_left, Bool.not_eq_true, not_ticking_iff, and_imp]

/-- Settles O23: R36 is the guard that every transaction but RESET tests, and nothing behind the guard is a fault. -/
theorem brokenInvariantIsTheFault : Obligations.BrokenInvariantIsTheFault := by
  intro s hv atReset good
  have hinv : good ↔ invariantHolds s = true := (invariantHolds_iff_freeze s).symm
  refine ⟨hinv.trans (and_iff_right hv).symm, fun hbad i hi => ?_, fun hgood i => ?_, ?_⟩
  · exact exec_of_broken hi hv (Bool.eq_false_iff.mpr (mt hinv.mpr hbad))
  · exact noFault_exec_of_ready i ⟨hv, hinv.mp hgood⟩
  · rw [exec_reset_of_valid hv]
    exact noFault_next _

/-- A step from a ready state is no fault: a word that is no transaction is refused, any other stimulus answers. -/
theorem noFault_step {s : State} (h : s.Ready) : NoFault (step s) := by
  rcases step_cases s with ⟨-, e⟩ | ⟨level, rest, -, e⟩ | ⟨w, rest, i, -, -, e⟩ | ⟨w, rest, err, -, -, e⟩ <;> rw [e]
  · exact noFault_next _
  · exact noFault_next _
  · exact noFault_exec_of_ready i h
  · exact noFault_refused _

/-- A run from a state that meets the machine's invariant is no fault: every step keeps the invariant. -/
theorem noFault_run {s : State} (h : s.Inv) (k : Nat) : NoFault (Host.Core.run core k s) := by
  induction k generalizing s with
  | zero => exact noFault_next s
  | succ k ih =>
    have hstep : NoFault (step s) := noFault_step h.1
    simp only [Host.Core.run, core]
    cases e : step s with
    | next t => exact ih (stepKeepsTheInvariant s t h e)
    | fault r => exact absurd e (hstep r)
    | refused r => exact noFault_refused r

/-- Settles O22: the reset state meets the invariant, which reads nothing of the stream. -/
theorem noRunFromResetFaults : Obligations.NoRunFromResetFaults := by
  intro c input k hc
  have hinv : ({ State.resetWith c with input := input } : State).Inv := inv_resetWith hc
  exact noFault_run hinv k

/-! ### The status requests (R173, R175) -/

/-- An entry raises a status request only with its enable set, and that of HBLANK only with the display on. -/
theorem irqStat_mem_entryEvents {src : StatSource} {m : Mode} {s : State} (he : .irqStat src ∈ entryEvents m s) :
    enabled s src = true ∧ (src = .hbl → displayOn s = true) := by
  cases m with
  | hblank =>
    simp only [entryEvents, List.mem_append, List.mem_ite_nil_right, mem_statEvents, List.mem_singleton, reduceCtorEq,
      and_false, or_false] at he
    obtain ⟨hon, henabled, hsrc⟩ := he
    cases hsrc
    exact ⟨henabled, fun _ => hon⟩
  | vblank =>
    simp only [entryEvents, List.mem_append, mem_statEvents, List.mem_cons, List.not_mem_nil, reduceCtorEq, or_false,
      false_or] at he
    obtain ⟨henabled, hsrc⟩ := he
    cases hsrc
    exact ⟨henabled, nofun⟩
  | oamSearch =>
    simp only [entryEvents, List.mem_append, List.mem_ite_nil_right, mem_statEvents] at he
    rcases he with ⟨henabled, hsrc⟩ | ⟨-, henabled, hsrc⟩ <;> cases hsrc <;> exact ⟨henabled, nofun⟩
  | pixelTransfer => cases he

/-- So does a run of ticks, by the enables and the display bit it started with: no tick writes them. -/
theorem irqStat_mem_runEvents {src : StatSource} {n : Nat} {s : State} (he : .irqStat src ∈ runEvents n s) :
    enabled s src = true ∧ (src = .hbl → displayOn s = true) := by
  obtain ⟨k, hk⟩ := exists_tick_of_mem_run he
  obtain ⟨-, -, -, hentry⟩ := mem_tickEvents.mp hk
  have hregs : SameRegisters s (advanced (ticks k s)) := (ticks_sameRegisters k s).trans (sameRegisters_advanced _)
  rw [← hregs.enabled_eq, ← hregs.displayOn_eq]
  exact irqStat_mem_entryEvents hentry

/-- Settles O41, source by source. -/
theorem statusRequestsNeedTheirEnable : Obligations.StatusRequestsNeedTheirEnable := by
  intro s t n hstep
  obtain ⟨-, rfl⟩ := exec_step_next hstep
  rw [events_step]
  have hneeds {src : StatSource} (he : .irqStat src ∈ runEvents n (quiet s)) :
      enabled s src = true ∧ (src = .hbl → displayOn s = true) := irqStat_mem_runEvents (s := quiet s) he
  exact ⟨fun he => (hneeds he).imp_right (· rfl), fun he => (hneeds he).1, fun he => (hneeds he).1,
    fun he => (hneeds he).1⟩

/-! ### Waking the display (R184) -/

/-- A transaction that turns the display on is the WR LCDC of the byte it leaves, or RESET where P_LCDC_RESET has it set
(log entry 20). -/
theorem effect_wakes {i : Instr} {s : State} (hoff : displayOn s = false) (hon : displayOn (effect i s) = true) :
    i = .wrLcdc (effect i s).lcdc ∨ i = .reset ∧ displayEnable s.cfg.lcdcReset = true := by
  rcases effect_lcdc i s with hsame | hwrite | hreset
  · rw [displayOn, hsame] at hon
    exact absurd hon (Bool.eq_false_iff.mp hoff)
  · exact .inl hwrite
  · subst hreset
    exact .inr ⟨rfl, hon⟩

/-- Settles O40, by the cases of a step: without a transaction LCDC stays, with one it is `effect_wakes`. -/
theorem onlyLcdcWritesWakeTheDisplay : Obligations.OnlyLcdcWritesWakeTheDisplay := by
  intro s t hstep hoff hon
  rcases step_cases s with ⟨-, e⟩ | ⟨level, rest, -, e⟩ | ⟨w, rest, i, hin, hw, e⟩ | ⟨w, rest, err, -, -, e⟩
  · obtain rfl : quiet s = t := by simpa [e] using hstep
    exact absurd hon (Bool.eq_false_iff.mp hoff)
  · obtain rfl : quiet { s with input := rest, hdmaActive := level } = t := by simpa [e] using hstep
    exact absurd hon (Bool.eq_false_iff.mp hoff)
  · obtain ⟨-, -, rfl⟩ := exec_next (e.symm.trans hstep)
    refine ⟨w, rest, hin, ?_⟩
    rcases effect_wakes (s := quiet { s with input := rest }) hoff hon with hwrite | ⟨hreset, hset⟩
    · exact .inl ⟨_, hw.trans (congrArg _ hwrite), hon, rfl⟩
    · exact .inr ⟨hw.trans (congrArg _ hreset), hset⟩
  · rw [e] at hstep
    cases hstep

end Sys2Proof.Machine

/-! PROOF. The statements of 70_reset_and_hazards.md. RESET answers in every state of a valid configuration
(`exec_reset_of_valid`), so what it leaves is said once about `resetBlock`: R35's values, clear framebuffers, and the
bytes that the two reads return after it. -/

namespace Sys2Proof.Machine

/-- RESET clears either framebuffer (R200). -/
@[simp] theorem fb_resetBlock (s : State) (b : FbIndex) : fb (resetBlock s) b = [] := by
  rw [fb, resetBlock_fb0, resetBlock_fb1, ite_self]

/-- A cleared framebuffer reads the clear pixel at every index it has (10_state.md R35). -/
theorem pixel_of_fb_nil {s : State} {b : FbIndex} {i : Nat} (hfb : fb s b = []) (hi : i < fbSize s.cfg) :
    pixel s b i = some s.cfg.clearPixel := by
  rw [pixel, if_pos hi, hfb, fbGet]

/-- STAT after RESET: the enables are 0, LY and LYC coincide at 0, and the mode is 0 (R200). -/
theorem statByte_resetBlock (s : State) :
    statByte (resetBlock s) = BitVec.ofBool s.cfg.statBit7 ++ 0b0000100#7 := by
  have hcoincidence : coincidence (resetBlock s) = true := coincidence_of_cnt_zero rfl
  rw [statByte, hcoincidence, resetBlock_cfg, resetBlock_statIe, resetBlock_mode]
  cases s.cfg.statBit7 <;> rfl

/-- RD STAT and RD LCDC after RESET, whatever the state before was. -/
theorem exec_reset_reads {s : State} (hv : validConfig s.cfg = true) :
    ∃ t u v, exec .reset s = .next t ∧
      exec .rdStat t = .next u ∧ u.result = some (BitVec.ofBool s.cfg.statBit7 ++ 0b0000100#7) ∧
      exec .rdLcdc t = .next v ∧ v.result = some s.cfg.lcdcReset := by
  have hreset := exec_reset_of_valid hv
  have hready := ready_of_exec hreset
  exact ⟨_, _, _, hreset, exec_rdOf .stat hready, congrArg some (statByte_resetBlock (quiet s)),
    exec_rdOf .lcdc hready, rfl⟩

/-- Settles O18: the state is `resetBlock`'s, whose framebuffers are clear; the bytes with the defaults are an instance
of those for every configuration. -/
theorem resetLeavesTheResetValues : Obligations.ResetLeavesTheResetValues := by
  refine ⟨decode_encode (i := .reset) rfl, fun s h => ?_, fun s h => exec_reset_reads h.1, fun s h hcfg => ?_⟩
  · exact ⟨_, exec_reset_of_valid h.1, rfl, fun b i hi => pixel_of_fb_nil (fb_resetBlock (quiet s) b) hi⟩
  · have hreads := exec_reset_reads h.1
    rwa [hcfg] at hreads

/-- RESET leaves the block in the power-on state of its configuration, whatever state it starts from (R201). -/
theorem sameFsm_resetBlock (s : State) : SameFsm (State.resetWith s.cfg) (resetBlock s) :=
  ⟨rfl, rfl, rfl, rfl, rfl, rfl, rfl⟩

/-- Settles O19: the guard of RESET asks for a valid configuration only, and `resetWith` has the values that
`resetBlock` writes. -/
theorem powerOnIsTheResetState : Obligations.PowerOnIsTheResetState := by
  refine ⟨fun c hc => ?_, fun s hv => ?_, fun c => ⟨rfl, rfl⟩, rfl⟩
  · exact exec_reset_of_valid (s := State.resetWith c) hc
  · exact ⟨_, exec_reset_of_valid hv, sameFsm_resetBlock (quiet s), rfl, rfl, rfl, rfl⟩

end Sys2Proof.Machine
